-- ==== Sys2Proof/Word.lean ====
section
/-! DEFINITION. The machine word (00_scope.md R5, 10_state.md R30): a sign and five 6-bit bytes, its magnitude,
its value, and the word `W(s, m)` of a sign and a magnitude. -/

namespace Sys2Proof

/-- The sign of a word, "byte 0" (00_scope.md R5). -/
inductive Sign where
  | plus
  | minus
  deriving DecidableEq, Repr, Inhabited

/-- `flip(s)` of 00_scope.md R6. -/
def Sign.flip : Sign → Sign
  | .plus => .minus
  | .minus => .plus

/-- `sameSign(s1, s2)` of 00_scope.md R6: `+` iff the two signs match. -/
def Sign.same (s₁ s₂ : Sign) : Sign :=
  if s₁ = s₂ then .plus else .minus

/-- A byte holds 0..63 (`BYTE_BITS` of 00_scope.md R4). -/
abbrev Byte := BitVec 6

/-- A word `(s, b1, b2, b3, b4, b5)`; byte 1 is the most significant (00_scope.md R5). -/
structure Word where
  sign : Sign
  b1 : Byte
  b2 : Byte
  b3 : Byte
  b4 : Byte
  b5 : Byte
  deriving DecidableEq, Repr, Inhabited

/-- `H = MAG_LIMIT = 2^30` (00_scope.md R4): every magnitude is below it. -/
abbrev magLimit : Nat := 1073741824

/-- Byte `k` of a word, for `k` = 1..5; any other `k` selects no byte and reads 0. -/
def Word.byte (w : Word) : Nat → Byte
  | 1 => w.b1
  | 2 => w.b2
  | 3 => w.b3
  | 4 => w.b4
  | 5 => w.b5
  | _ => 0

/-- `mag(w)` of 00_scope.md R5. The constants stand on the left: Lean unfolds a product by its right factor. -/
def Word.mag (w : Word) : Nat :=
  64 ^ 4 * w.b1.toNat + 64 ^ 3 * w.b2.toNat + 64 ^ 2 * w.b3.toNat + 64 * w.b4.toNat + w.b5.toNat

/-- `val(w)` of 00_scope.md R5. -/
def Word.val (w : Word) : Int :=
  match w.sign with
  | .plus => (w.mag : Int)
  | .minus => -(w.mag : Int)

/-- `W(s, m)` of 00_scope.md R5, meant for `m < 2^30`. -/
def Word.ofMag (s : Sign) (m : Nat) : Word where
  sign := s
  b1 := BitVec.ofNat 6 (m / 64 ^ 4)
  b2 := BitVec.ofNat 6 (m / 64 ^ 3)
  b3 := BitVec.ofNat 6 (m / 64 ^ 2)
  b4 := BitVec.ofNat 6 (m / 64)
  b5 := BitVec.ofNat 6 m

/-- `+0`. -/
def Word.plusZero : Word := Word.ofMag .plus 0

/-- `−0`: distinct from `+0`, of the same value (00_scope.md R5). -/
def Word.minusZero : Word := Word.ofMag .minus 0

end Sys2Proof
end

