-- ==== Sys2Proof/Syntax.lean ====
section
/-! DEFINITION. The instructions: one constructor for each row of spec/opcode_table.json (30_encoding.md R108). -/

namespace Sys2Proof

/-- The part every instruction has (30_encoding.md R101): the address field (sign and 12-bit magnitude, so that
`−0` differs from `+0`, R102) and the index byte I. The index byte is kept as the word holds it, 0..63; a value above
6 halts when the instruction runs (R103). -/
structure Addr where
  sign : Sign
  mag : BitVec 12
  idx : Byte
  deriving DecidableEq, Repr, Inhabited

/-- The instructions of 30_encoding.md R108. Every constructor carries the address part `m`. A constructor whose
opcode has its F byte as an operand carries it as `f`: a field specification `L:R`, a unit (JBUS, IOC, IN, OUT, JRED),
a word count (MOVE), or the ignored byte of NOP (R105). The F byte of a variant opcode selects the constructor and is
no operand. -/
inductive Instr where
  -- 44_special.md
  /-- NOP, C = 0, F is ignored (R323). -/
  | nop (m : Addr) (f : Byte)
  -- 43_arithmetic.md
  /-- ADD, C = 1, F is a field `L:R` (R300). -/
  | add (m : Addr) (f : Byte)
  /-- SUB, C = 2, F is a field `L:R` (R301). -/
  | sub (m : Addr) (f : Byte)
  /-- MUL, C = 3, F is a field `L:R` (R302). -/
  | mul (m : Addr) (f : Byte)
  /-- DIV, C = 4, F is a field `L:R` (R303). -/
  | div (m : Addr) (f : Byte)
  -- 44_special.md
  /-- NUM, C = 5, variant F = 0 (R320). -/
  | num (m : Addr)
  /-- CHAR, C = 5, variant F = 1 (R321). -/
  | char (m : Addr)
  /-- HLT, C = 5, variant F = 2 (R322). -/
  | hlt (m : Addr)
  -- 45_shift_move.md
  /-- SLA, C = 6, variant F = 0 (R340). -/
  | sla (m : Addr)
  /-- SRA, C = 6, variant F = 1 (R341). -/
  | sra (m : Addr)
  /-- SLAX, C = 6, variant F = 2 (R342). -/
  | slax (m : Addr)
  /-- SRAX, C = 6, variant F = 3 (R343). -/
  | srax (m : Addr)
  /-- SLC, C = 6, variant F = 4 (R344). -/
  | slc (m : Addr)
  /-- SRC, C = 6, variant F = 5 (R345). -/
  | src (m : Addr)
  /-- MOVE, C = 7, F is a count (R346). -/
  | move (m : Addr) (f : Byte)
  -- 42_load_store.md
  /-- LDA, C = 8, F is a field `L:R` (R250). -/
  | lda (m : Addr) (f : Byte)
  /-- LD1, C = 9, F is a field `L:R` (R251). -/
  | ld1 (m : Addr) (f : Byte)
  /-- LD2, C = 10, F is a field `L:R` (R252). -/
  | ld2 (m : Addr) (f : Byte)
  /-- LD3, C = 11, F is a field `L:R` (R253). -/
  | ld3 (m : Addr) (f : Byte)
  /-- LD4, C = 12, F is a field `L:R` (R254). -/
  | ld4 (m : Addr) (f : Byte)
  /-- LD5, C = 13, F is a field `L:R` (R255). -/
  | ld5 (m : Addr) (f : Byte)
  /-- LD6, C = 14, F is a field `L:R` (R256). -/
  | ld6 (m : Addr) (f : Byte)
  /-- LDX, C = 15, F is a field `L:R` (R257). -/
  | ldx (m : Addr) (f : Byte)
  /-- LDAN, C = 16, F is a field `L:R` (R258). -/
  | ldan (m : Addr) (f : Byte)
  /-- LD1N, C = 17, F is a field `L:R` (R259). -/
  | ld1n (m : Addr) (f : Byte)
  /-- LD2N, C = 18, F is a field `L:R` (R260). -/
  | ld2n (m : Addr) (f : Byte)
  /-- LD3N, C = 19, F is a field `L:R` (R261). -/
  | ld3n (m : Addr) (f : Byte)
  /-- LD4N, C = 20, F is a field `L:R` (R262). -/
  | ld4n (m : Addr) (f : Byte)
  /-- LD5N, C = 21, F is a field `L:R` (R263). -/
  | ld5n (m : Addr) (f : Byte)
  /-- LD6N, C = 22, F is a field `L:R` (R264). -/
  | ld6n (m : Addr) (f : Byte)
  /-- LDXN, C = 23, F is a field `L:R` (R265). -/
  | ldxn (m : Addr) (f : Byte)
  /-- STA, C = 24, F is a field `L:R` (R266). -/
  | sta (m : Addr) (f : Byte)
  /-- ST1, C = 25, F is a field `L:R` (R267). -/
  | st1 (m : Addr) (f : Byte)
  /-- ST2, C = 26, F is a field `L:R` (R268). -/
  | st2 (m : Addr) (f : Byte)
  /-- ST3, C = 27, F is a field `L:R` (R269). -/
  | st3 (m : Addr) (f : Byte)
  /-- ST4, C = 28, F is a field `L:R` (R270). -/
  | st4 (m : Addr) (f : Byte)
  /-- ST5, C = 29, F is a field `L:R` (R271). -/
  | st5 (m : Addr) (f : Byte)
  /-- ST6, C = 30, F is a field `L:R` (R272). -/
  | st6 (m : Addr) (f : Byte)
  /-- STX, C = 31, F is a field `L:R` (R273). -/
  | stx (m : Addr) (f : Byte)
  /-- STJ, C = 32, F is a field `L:R` (R274). -/
  | stj (m : Addr) (f : Byte)
  /-- STZ, C = 33, F is a field `L:R` (R275). -/
  | stz (m : Addr) (f : Byte)
  -- 49_io.md
  /-- JBUS, C = 34, F is a unit (R502). -/
  | jbus (m : Addr) (f : Byte)
  /-- IOC, C = 35, F is a unit (R506). -/
  | ioc (m : Addr) (f : Byte)
  /-- IN, C = 36, F is a unit (R504). -/
  | inp (m : Addr) (f : Byte)
  /-- OUT, C = 37, F is a unit (R505). -/
  | out (m : Addr) (f : Byte)
  /-- JRED, C = 38, F is a unit (R503). -/
  | jred (m : Addr) (f : Byte)
  -- 47_jump.md
  /-- JMP, C = 39, variant F = 0 (R380). -/
  | jmp (m : Addr)
  /-- JSJ, C = 39, variant F = 1 (R381). -/
  | jsj (m : Addr)
  /-- JOV, C = 39, variant F = 2 (R382). -/
  | jov (m : Addr)
  /-- JNOV, C = 39, variant F = 3 (R383). -/
  | jnov (m : Addr)
  /-- JL, C = 39, variant F = 4 (R384). -/
  | jl (m : Addr)
  /-- JE, C = 39, variant F = 5 (R385). -/
  | je (m : Addr)
  /-- JG, C = 39, variant F = 6 (R386). -/
  | jg (m : Addr)
  /-- JGE, C = 39, variant F = 7 (R387). -/
  | jge (m : Addr)
  /-- JNE, C = 39, variant F = 8 (R388). -/
  | jne (m : Addr)
  /-- JLE, C = 39, variant F = 9 (R389). -/
  | jle (m : Addr)
  /-- JAN, C = 40, variant F = 0 (R390). -/
  | jan (m : Addr)
  /-- JAZ, C = 40, variant F = 1 (R391). -/
  | jaz (m : Addr)
  /-- JAP, C = 40, variant F = 2 (R392). -/
  | jap (m : Addr)
  /-- JANN, C = 40, variant F = 3 (R393). -/
  | jann (m : Addr)
  /-- JANZ, C = 40, variant F = 4 (R394). -/
  | janz (m : Addr)
  /-- JANP, C = 40, variant F = 5 (R395). -/
  | janp (m : Addr)
  /-- J1N, C = 41, variant F = 0 (R396). -/
  | j1n (m : Addr)
  /-- J1Z, C = 41, variant F = 1 (R397). -/
  | j1z (m : Addr)
  /-- J1P, C = 41, variant F = 2 (R398). -/
  | j1p (m : Addr)
  /-- J1NN, C = 41, variant F = 3 (R399). -/
  | j1nn (m : Addr)
  /-- J1NZ, C = 41, variant F = 4 (R400). -/
  | j1nz (m : Addr)
  /-- J1NP, C = 41, variant F = 5 (R401). -/
  | j1np (m : Addr)
  /-- J2N, C = 42, variant F = 0 (R402). -/
  | j2n (m : Addr)
  /-- J2Z, C = 42, variant F = 1 (R403). -/
  | j2z (m : Addr)
  /-- J2P, C = 42, variant F = 2 (R404). -/
  | j2p (m : Addr)
  /-- J2NN, C = 42, variant F = 3 (R405). -/
  | j2nn (m : Addr)
  /-- J2NZ, C = 42, variant F = 4 (R406). -/
  | j2nz (m : Addr)
  /-- J2NP, C = 42, variant F = 5 (R407). -/
  | j2np (m : Addr)
  /-- J3N, C = 43, variant F = 0 (R408). -/
  | j3n (m : Addr)
  /-- J3Z, C = 43, variant F = 1 (R409). -/
  | j3z (m : Addr)
  /-- J3P, C = 43, variant F = 2 (R410). -/
  | j3p (m : Addr)
  /-- J3NN, C = 43, variant F = 3 (R411). -/
  | j3nn (m : Addr)
  /-- J3NZ, C = 43, variant F = 4 (R412). -/
  | j3nz (m : Addr)
  /-- J3NP, C = 43, variant F = 5 (R413). -/
  | j3np (m : Addr)
  /-- J4N, C = 44, variant F = 0 (R414). -/
  | j4n (m : Addr)
  /-- J4Z, C = 44, variant F = 1 (R415). -/
  | j4z (m : Addr)
  /-- J4P, C = 44, variant F = 2 (R416). -/
  | j4p (m : Addr)
  /-- J4NN, C = 44, variant F = 3 (R417). -/
  | j4nn (m : Addr)
  /-- J4NZ, C = 44, variant F = 4 (R418). -/
  | j4nz (m : Addr)
  /-- J4NP, C = 44, variant F = 5 (R419). -/
  | j4np (m : Addr)
  /-- J5N, C = 45, variant F = 0 (R420). -/
  | j5n (m : Addr)
  /-- J5Z, C = 45, variant F = 1 (R421). -/
  | j5z (m : Addr)
  /-- J5P, C = 45, variant F = 2 (R422). -/
  | j5p (m : Addr)
  /-- J5NN, C = 45, variant F = 3 (R423). -/
  | j5nn (m : Addr)
  /-- J5NZ, C = 45, variant F = 4 (R424). -/
  | j5nz (m : Addr)
  /-- J5NP, C = 45, variant F = 5 (R425). -/
  | j5np (m : Addr)
  /-- J6N, C = 46, variant F = 0 (R426). -/
  | j6n (m : Addr)
  /-- J6Z, C = 46, variant F = 1 (R427). -/
  | j6z (m : Addr)
  /-- J6P, C = 46, variant F = 2 (R428). -/
  | j6p (m : Addr)
  /-- J6NN, C = 46, variant F = 3 (R429). -/
  | j6nn (m : Addr)
  /-- J6NZ, C = 46, variant F = 4 (R430). -/
  | j6nz (m : Addr)
  /-- J6NP, C = 46, variant F = 5 (R431). -/
  | j6np (m : Addr)
  /-- JXN, C = 47, variant F = 0 (R432). -/
  | jxn (m : Addr)
  /-- JXZ, C = 47, variant F = 1 (R433). -/
  | jxz (m : Addr)
  /-- JXP, C = 47, variant F = 2 (R434). -/
  | jxp (m : Addr)
  /-- JXNN, C = 47, variant F = 3 (R435). -/
  | jxnn (m : Addr)
  /-- JXNZ, C = 47, variant F = 4 (R436). -/
  | jxnz (m : Addr)
  /-- JXNP, C = 47, variant F = 5 (R437). -/
  | jxnp (m : Addr)
  -- 48_address_transfer.md
  /-- INCA, C = 48, variant F = 0 (R450). -/
  | inca (m : Addr)
  /-- DECA, C = 48, variant F = 1 (R451). -/
  | deca (m : Addr)
  /-- ENTA, C = 48, variant F = 2 (R452). -/
  | enta (m : Addr)
  /-- ENNA, C = 48, variant F = 3 (R453). -/
  | enna (m : Addr)
  /-- INC1, C = 49, variant F = 0 (R454). -/
  | inc1 (m : Addr)
  /-- DEC1, C = 49, variant F = 1 (R455). -/
  | dec1 (m : Addr)
  /-- ENT1, C = 49, variant F = 2 (R456). -/
  | ent1 (m : Addr)
  /-- ENN1, C = 49, variant F = 3 (R457). -/
  | enn1 (m : Addr)
  /-- INC2, C = 50, variant F = 0 (R458). -/
  | inc2 (m : Addr)
  /-- DEC2, C = 50, variant F = 1 (R459). -/
  | dec2 (m : Addr)
  /-- ENT2, C = 50, variant F = 2 (R460). -/
  | ent2 (m : Addr)
  /-- ENN2, C = 50, variant F = 3 (R461). -/
  | enn2 (m : Addr)
  /-- INC3, C = 51, variant F = 0 (R462). -/
  | inc3 (m : Addr)
  /-- DEC3, C = 51, variant F = 1 (R463). -/
  | dec3 (m : Addr)
  /-- ENT3, C = 51, variant F = 2 (R464). -/
  | ent3 (m : Addr)
  /-- ENN3, C = 51, variant F = 3 (R465). -/
  | enn3 (m : Addr)
  /-- INC4, C = 52, variant F = 0 (R466). -/
  | inc4 (m : Addr)
  /-- DEC4, C = 52, variant F = 1 (R467). -/
  | dec4 (m : Addr)
  /-- ENT4, C = 52, variant F = 2 (R468). -/
  | ent4 (m : Addr)
  /-- ENN4, C = 52, variant F = 3 (R469). -/
  | enn4 (m : Addr)
  /-- INC5, C = 53, variant F = 0 (R470). -/
  | inc5 (m : Addr)
  /-- DEC5, C = 53, variant F = 1 (R471). -/
  | dec5 (m : Addr)
  /-- ENT5, C = 53, variant F = 2 (R472). -/
  | ent5 (m : Addr)
  /-- ENN5, C = 53, variant F = 3 (R473). -/
  | enn5 (m : Addr)
  /-- INC6, C = 54, variant F = 0 (R474). -/
  | inc6 (m : Addr)
  /-- DEC6, C = 54, variant F = 1 (R475). -/
  | dec6 (m : Addr)
  /-- ENT6, C = 54, variant F = 2 (R476). -/
  | ent6 (m : Addr)
  /-- ENN6, C = 54, variant F = 3 (R477). -/
  | enn6 (m : Addr)
  /-- INCX, C = 55, variant F = 0 (R478). -/
  | incx (m : Addr)
  /-- DECX, C = 55, variant F = 1 (R479). -/
  | decx (m : Addr)
  /-- ENTX, C = 55, variant F = 2 (R480). -/
  | entx (m : Addr)
  /-- ENNX, C = 55, variant F = 3 (R481). -/
  | ennx (m : Addr)
  -- 46_compare.md
  /-- CMPA, C = 56, F is a field `L:R` (R360). -/
  | cmpa (m : Addr) (f : Byte)
  /-- CMP1, C = 57, F is a field `L:R` (R361). -/
  | cmp1 (m : Addr) (f : Byte)
  /-- CMP2, C = 58, F is a field `L:R` (R362). -/
  | cmp2 (m : Addr) (f : Byte)
  /-- CMP3, C = 59, F is a field `L:R` (R363). -/
  | cmp3 (m : Addr) (f : Byte)
  /-- CMP4, C = 60, F is a field `L:R` (R364). -/
  | cmp4 (m : Addr) (f : Byte)
  /-- CMP5, C = 61, F is a field `L:R` (R365). -/
  | cmp5 (m : Addr) (f : Byte)
  /-- CMP6, C = 62, F is a field `L:R` (R366). -/
  | cmp6 (m : Addr) (f : Byte)
  /-- CMPX, C = 63, F is a field `L:R` (R367). -/
  | cmpx (m : Addr) (f : Byte)
  deriving DecidableEq, Repr, Inhabited

end Sys2Proof
end

