-- ==== Sys2Proof/Decode.lean ====
section
/-! DEFINITION. Words as 31-bit integers (30_encoding.md R100), the decoder (R101 to R109, 41_cycle.md R202, R206 and
R218), total on every word and rejecting by name, and the encoder, written from the same table. -/

namespace Sys2Proof

/-! ### Packing (R100) -/

/-- `pack(w)`: bit 30 is the sign, 1 for `−`, and bits 29..0 the magnitude. -/
def packWord (w : Word) : Nat :=
  (match w.sign with
    | .plus => 0
    | .minus => 1073741824) + w.mag

/-- The word whose packing is `n`, for `n < 2^31`. -/
def unpackWord (n : Nat) : Word :=
  Word.ofMag (if n / 1073741824 % 2 = 1 then .minus else .plus) (n % 1073741824)

/-! ### Decoding -/

/-- Why a word is no instruction: R109's undefined variants, the only case (R107, R218). -/
inductive DecodeError where
  /-- `C` is a variant opcode and `F` is not in its list. -/
  | undefinedVariant (c f : Byte)
  deriving DecidableEq, Repr

/-- The address part of a word (R101): sign and bytes 1..2, and byte 3. -/
def addrOfWord (w : Word) : Addr where
  sign := w.sign
  mag := w.b1 ++ w.b2
  idx := w.b3

/-- `lookup` of 41_cycle.md R218, on the opcode map of R108 and the variant lists of R109: `none` is `Invalid`. -/
def lookupInstr (c f : Byte) (m : Addr) : Option Instr :=
  match c.toNat with
  | 0 => some (.nop m f)
  | 1 => some (.add m f)
  | 2 => some (.sub m f)
  | 3 => some (.mul m f)
  | 4 => some (.div m f)
  | 5 =>
    match f.toNat with
    | 0 => some (.num m)
    | 1 => some (.char m)
    | 2 => some (.hlt m)
    | _ => none
  | 6 =>
    match f.toNat with
    | 0 => some (.sla m)
    | 1 => some (.sra m)
    | 2 => some (.slax m)
    | 3 => some (.srax m)
    | 4 => some (.slc m)
    | 5 => some (.src m)
    | _ => none
  | 7 => some (.move m f)
  | 8 => some (.lda m f)
  | 9 => some (.ld1 m f)
  | 10 => some (.ld2 m f)
  | 11 => some (.ld3 m f)
  | 12 => some (.ld4 m f)
  | 13 => some (.ld5 m f)
  | 14 => some (.ld6 m f)
  | 15 => some (.ldx m f)
  | 16 => some (.ldan m f)
  | 17 => some (.ld1n m f)
  | 18 => some (.ld2n m f)
  | 19 => some (.ld3n m f)
  | 20 => some (.ld4n m f)
  | 21 => some (.ld5n m f)
  | 22 => some (.ld6n m f)
  | 23 => some (.ldxn m f)
  | 24 => some (.sta m f)
  | 25 => some (.st1 m f)
  | 26 => some (.st2 m f)
  | 27 => some (.st3 m f)
  | 28 => some (.st4 m f)
  | 29 => some (.st5 m f)
  | 30 => some (.st6 m f)
  | 31 => some (.stx m f)
  | 32 => some (.stj m f)
  | 33 => some (.stz m f)
  | 34 => some (.jbus m f)
  | 35 => some (.ioc m f)
  | 36 => some (.inp m f)
  | 37 => some (.out m f)
  | 38 => some (.jred m f)
  | 39 =>
    match f.toNat with
    | 0 => some (.jmp m)
    | 1 => some (.jsj m)
    | 2 => some (.jov m)
    | 3 => some (.jnov m)
    | 4 => some (.jl m)
    | 5 => some (.je m)
    | 6 => some (.jg m)
    | 7 => some (.jge m)
    | 8 => some (.jne m)
    | 9 => some (.jle m)
    | _ => none
  | 40 =>
    match f.toNat with
    | 0 => some (.jan m)
    | 1 => some (.jaz m)
    | 2 => some (.jap m)
    | 3 => some (.jann m)
    | 4 => some (.janz m)
    | 5 => some (.janp m)
    | _ => none
  | 41 =>
    match f.toNat with
    | 0 => some (.j1n m)
    | 1 => some (.j1z m)
    | 2 => some (.j1p m)
    | 3 => some (.j1nn m)
    | 4 => some (.j1nz m)
    | 5 => some (.j1np m)
    | _ => none
  | 42 =>
    match f.toNat with
    | 0 => some (.j2n m)
    | 1 => some (.j2z m)
    | 2 => some (.j2p m)
    | 3 => some (.j2nn m)
    | 4 => some (.j2nz m)
    | 5 => some (.j2np m)
    | _ => none
  | 43 =>
    match f.toNat with
    | 0 => some (.j3n m)
    | 1 => some (.j3z m)
    | 2 => some (.j3p m)
    | 3 => some (.j3nn m)
    | 4 => some (.j3nz m)
    | 5 => some (.j3np m)
    | _ => none
  | 44 =>
    match f.toNat with
    | 0 => some (.j4n m)
    | 1 => some (.j4z m)
    | 2 => some (.j4p m)
    | 3 => some (.j4nn m)
    | 4 => some (.j4nz m)
    | 5 => some (.j4np m)
    | _ => none
  | 45 =>
    match f.toNat with
    | 0 => some (.j5n m)
    | 1 => some (.j5z m)
    | 2 => some (.j5p m)
    | 3 => some (.j5nn m)
    | 4 => some (.j5nz m)
    | 5 => some (.j5np m)
    | _ => none
  | 46 =>
    match f.toNat with
    | 0 => some (.j6n m)
    | 1 => some (.j6z m)
    | 2 => some (.j6p m)
    | 3 => some (.j6nn m)
    | 4 => some (.j6nz m)
    | 5 => some (.j6np m)
    | _ => none
  | 47 =>
    match f.toNat with
    | 0 => some (.jxn m)
    | 1 => some (.jxz m)
    | 2 => some (.jxp m)
    | 3 => some (.jxnn m)
    | 4 => some (.jxnz m)
    | 5 => some (.jxnp m)
    | _ => none
  | 48 =>
    match f.toNat with
    | 0 => some (.inca m)
    | 1 => some (.deca m)
    | 2 => some (.enta m)
    | 3 => some (.enna m)
    | _ => none
  | 49 =>
    match f.toNat with
    | 0 => some (.inc1 m)
    | 1 => some (.dec1 m)
    | 2 => some (.ent1 m)
    | 3 => some (.enn1 m)
    | _ => none
  | 50 =>
    match f.toNat with
    | 0 => some (.inc2 m)
    | 1 => some (.dec2 m)
    | 2 => some (.ent2 m)
    | 3 => some (.enn2 m)
    | _ => none
  | 51 =>
    match f.toNat with
    | 0 => some (.inc3 m)
    | 1 => some (.dec3 m)
    | 2 => some (.ent3 m)
    | 3 => some (.enn3 m)
    | _ => none
  | 52 =>
    match f.toNat with
    | 0 => some (.inc4 m)
    | 1 => some (.dec4 m)
    | 2 => some (.ent4 m)
    | 3 => some (.enn4 m)
    | _ => none
  | 53 =>
    match f.toNat with
    | 0 => some (.inc5 m)
    | 1 => some (.dec5 m)
    | 2 => some (.ent5 m)
    | 3 => some (.enn5 m)
    | _ => none
  | 54 =>
    match f.toNat with
    | 0 => some (.inc6 m)
    | 1 => some (.dec6 m)
    | 2 => some (.ent6 m)
    | 3 => some (.enn6 m)
    | _ => none
  | 55 =>
    match f.toNat with
    | 0 => some (.incx m)
    | 1 => some (.decx m)
    | 2 => some (.entx m)
    | 3 => some (.ennx m)
    | _ => none
  | 56 => some (.cmpa m f)
  | 57 => some (.cmp1 m f)
  | 58 => some (.cmp2 m f)
  | 59 => some (.cmp3 m f)
  | 60 => some (.cmp4 m f)
  | 61 => some (.cmp5 m f)
  | 62 => some (.cmp6 m f)
  | _ => some (.cmpx m f)  -- 63, the last value of a byte

/-- The decoder: total, and rejecting by name (41_cycle.md R202 and R206). -/
def decode (w : Word) : Except DecodeError Instr :=
  match lookupInstr w.b5 w.b4 (addrOfWord w) with
  | some i => .ok i
  | none => .error (.undefinedVariant w.b5 w.b4)

/-- The decoder read on a row of spec/opcode_table.json: `w`'s low `nbits` bits are the packing of one word (R100),
and a number of 2^31 or more is no word. -/
def decodeTableWord (nbits w : Nat) : Option Instr :=
  if w % 2 ^ nbits < 2147483648 then
    match decode (unpackWord (w % 2 ^ nbits)) with
    | .ok i => some i
    | .error _ => none
  else none

/-! ### Encoding -/

/-- The address part of an instruction, its F byte and its C byte (R101, R108, R109). -/
def Instr.parts : Instr → Addr × Byte × Byte
  | .nop m f => (m, f, 0)
  | .add m f => (m, f, 1)
  | .sub m f => (m, f, 2)
  | .mul m f => (m, f, 3)
  | .div m f => (m, f, 4)
  | .num m => (m, 0, 5)
  | .char m => (m, 1, 5)
  | .hlt m => (m, 2, 5)
  | .sla m => (m, 0, 6)
  | .sra m => (m, 1, 6)
  | .slax m => (m, 2, 6)
  | .srax m => (m, 3, 6)
  | .slc m => (m, 4, 6)
  | .src m => (m, 5, 6)
  | .move m f => (m, f, 7)
  | .lda m f => (m, f, 8)
  | .ld1 m f => (m, f, 9)
  | .ld2 m f => (m, f, 10)
  | .ld3 m f => (m, f, 11)
  | .ld4 m f => (m, f, 12)
  | .ld5 m f => (m, f, 13)
  | .ld6 m f => (m, f, 14)
  | .ldx m f => (m, f, 15)
  | .ldan m f => (m, f, 16)
  | .ld1n m f => (m, f, 17)
  | .ld2n m f => (m, f, 18)
  | .ld3n m f => (m, f, 19)
  | .ld4n m f => (m, f, 20)
  | .ld5n m f => (m, f, 21)
  | .ld6n m f => (m, f, 22)
  | .ldxn m f => (m, f, 23)
  | .sta m f => (m, f, 24)
  | .st1 m f => (m, f, 25)
  | .st2 m f => (m, f, 26)
  | .st3 m f => (m, f, 27)
  | .st4 m f => (m, f, 28)
  | .st5 m f => (m, f, 29)
  | .st6 m f => (m, f, 30)
  | .stx m f => (m, f, 31)
  | .stj m f => (m, f, 32)
  | .stz m f => (m, f, 33)
  | .jbus m f => (m, f, 34)
  | .ioc m f => (m, f, 35)
  | .inp m f => (m, f, 36)
  | .out m f => (m, f, 37)
  | .jred m f => (m, f, 38)
  | .jmp m => (m, 0, 39)
  | .jsj m => (m, 1, 39)
  | .jov m => (m, 2, 39)
  | .jnov m => (m, 3, 39)
  | .jl m => (m, 4, 39)
  | .je m => (m, 5, 39)
  | .jg m => (m, 6, 39)
  | .jge m => (m, 7, 39)
  | .jne m => (m, 8, 39)
  | .jle m => (m, 9, 39)
  | .jan m => (m, 0, 40)
  | .jaz m => (m, 1, 40)
  | .jap m => (m, 2, 40)
  | .jann m => (m, 3, 40)
  | .janz m => (m, 4, 40)
  | .janp m => (m, 5, 40)
  | .j1n m => (m, 0, 41)
  | .j1z m => (m, 1, 41)
  | .j1p m => (m, 2, 41)
  | .j1nn m => (m, 3, 41)
  | .j1nz m => (m, 4, 41)
  | .j1np m => (m, 5, 41)
  | .j2n m => (m, 0, 42)
  | .j2z m => (m, 1, 42)
  | .j2p m => (m, 2, 42)
  | .j2nn m => (m, 3, 42)
  | .j2nz m => (m, 4, 42)
  | .j2np m => (m, 5, 42)
  | .j3n m => (m, 0, 43)
  | .j3z m => (m, 1, 43)
  | .j3p m => (m, 2, 43)
  | .j3nn m => (m, 3, 43)
  | .j3nz m => (m, 4, 43)
  | .j3np m => (m, 5, 43)
  | .j4n m => (m, 0, 44)
  | .j4z m => (m, 1, 44)
  | .j4p m => (m, 2, 44)
  | .j4nn m => (m, 3, 44)
  | .j4nz m => (m, 4, 44)
  | .j4np m => (m, 5, 44)
  | .j5n m => (m, 0, 45)
  | .j5z m => (m, 1, 45)
  | .j5p m => (m, 2, 45)
  | .j5nn m => (m, 3, 45)
  | .j5nz m => (m, 4, 45)
  | .j5np m => (m, 5, 45)
  | .j6n m => (m, 0, 46)
  | .j6z m => (m, 1, 46)
  | .j6p m => (m, 2, 46)
  | .j6nn m => (m, 3, 46)
  | .j6nz m => (m, 4, 46)
  | .j6np m => (m, 5, 46)
  | .jxn m => (m, 0, 47)
  | .jxz m => (m, 1, 47)
  | .jxp m => (m, 2, 47)
  | .jxnn m => (m, 3, 47)
  | .jxnz m => (m, 4, 47)
  | .jxnp m => (m, 5, 47)
  | .inca m => (m, 0, 48)
  | .deca m => (m, 1, 48)
  | .enta m => (m, 2, 48)
  | .enna m => (m, 3, 48)
  | .inc1 m => (m, 0, 49)
  | .dec1 m => (m, 1, 49)
  | .ent1 m => (m, 2, 49)
  | .enn1 m => (m, 3, 49)
  | .inc2 m => (m, 0, 50)
  | .dec2 m => (m, 1, 50)
  | .ent2 m => (m, 2, 50)
  | .enn2 m => (m, 3, 50)
  | .inc3 m => (m, 0, 51)
  | .dec3 m => (m, 1, 51)
  | .ent3 m => (m, 2, 51)
  | .enn3 m => (m, 3, 51)
  | .inc4 m => (m, 0, 52)
  | .dec4 m => (m, 1, 52)
  | .ent4 m => (m, 2, 52)
  | .enn4 m => (m, 3, 52)
  | .inc5 m => (m, 0, 53)
  | .dec5 m => (m, 1, 53)
  | .ent5 m => (m, 2, 53)
  | .enn5 m => (m, 3, 53)
  | .inc6 m => (m, 0, 54)
  | .dec6 m => (m, 1, 54)
  | .ent6 m => (m, 2, 54)
  | .enn6 m => (m, 3, 54)
  | .incx m => (m, 0, 55)
  | .decx m => (m, 1, 55)
  | .entx m => (m, 2, 55)
  | .ennx m => (m, 3, 55)
  | .cmpa m f => (m, f, 56)
  | .cmp1 m f => (m, f, 57)
  | .cmp2 m f => (m, f, 58)
  | .cmp3 m f => (m, f, 59)
  | .cmp4 m f => (m, f, 60)
  | .cmp5 m f => (m, f, 61)
  | .cmp6 m f => (m, f, 62)
  | .cmpx m f => (m, f, 63)

/-- The word `± A A I F C` of an address part, an F byte and a C byte (R101). -/
def wordOfParts (m : Addr) (f c : Byte) : Word where
  sign := m.sign
  b1 := m.mag.extractLsb' 6 6
  b2 := m.mag.extractLsb' 0 6
  b3 := m.idx
  b4 := f
  b5 := c

/-- The word of an instruction (R101, R108, R109). -/
def encode (i : Instr) : Word := wordOfParts i.parts.1 i.parts.2.1 i.parts.2.2

end Sys2Proof
end

