-- ==== Sys2Proof/Config.lean ====
section
/-! DEFINITION. What an implementation or the host fixes and the spec leaves open: the free values (opaque, no
body: nothing can be proved about the value of one), and the types they range over. The parameters for which the
spec gives a default are in Machine/Params.lean. -/

namespace Sys2Proof

/-- One request the core makes on a device port (49_io.md R491). -/
inductive HostRequest where
  /-- `readCard()` on unit 16. -/
  | readCard
  /-- `printLine(c[0..119])` on unit 18. -/
  | printLine (codes : List Byte)
  /-- `tapeRead(u)`. -/
  | tapeRead (unit : Nat)
  /-- `tapeWrite(u, w[0..TAPE_BLOCK_WORDS−1])`. -/
  | tapeWrite (unit : Nat) (words : List Word)
  /-- `hostControl(u, M)`, the request of IOC. -/
  | hostControl (unit : Nat) (m : Word)
  deriving DecidableEq, Repr

/-- The two readings of the remainder's sign in a division, the parameter `DIV_REM_SIGN` (00_scope.md R4). -/
inductive RemSign where
  | product
  | dividend
  deriving DecidableEq, Repr, Inhabited

/-- OPEN parameter (00_scope.md R4, 92_eei_decisions.md D34): `DEVTIME[u]` is an integer ≥ 1. This is
`DEVTIME[u] − 1`, any natural number (log entry 4). -/
opaque Config.devTimeLessOne : Nat → Nat

/-- FREE VALUE (49_io.md R491, log entry 5): whether the host answers a request with `Err(text)` (`some text`) or
with `Ok` (`none`). It may depend on every request made so far, this one last. -/
opaque Config.hostErr : List HostRequest → Option String

/-- FREE VALUE (49_io.md R491, log entry 5): the code `c[k]` of an `Ok` answer to `readCard`. -/
opaque Config.hostCode : List HostRequest → Nat → Byte

/-- FREE VALUE (49_io.md R491, log entry 5): the word `w[k]` of an `Ok` answer to `tapeRead`. -/
opaque Config.hostWord : List HostRequest → Nat → Word

end Sys2Proof
end

