-- ==== Sys2Proof/Machine/Params.lean ====
section
/-! DEFINITION. The implementation parameters of 00_scope.md R4, fixed ones as constants and the others as an argument of
the model (`Params`, log entry 8), and the device kinds, directions and block sizes of 49_io.md R490. -/

namespace Sys2Proof.Machine

/-- `MEM_WORDS`: addresses 0..3999. -/
abbrev memWords : Nat := 4000

/-- `IDX_LIMIT`: I1..I6 and J stay below it (10_state.md R32). -/
abbrev idxLimit : Nat := 4096

/-- `NUM_DEVICES`: units 0..20. -/
abbrev numDevices : Nat := 21

/-- `CARD_BLOCK_WORDS`. -/
def cardBlockWords : Nat := 16

/-- `PRINTER_BLOCK_WORDS`. -/
def printerBlockWords : Nat := 24

/-- `DEVTIME[u]`, OPEN, at least 1. -/
def devTime (u : Nat) : Nat := Config.devTimeLessOne u + 1

/-! ### `TIME` (41_cycle.md R215) -/

/-- A cost of the table `TIME`: a natural number of at least 1, held as the number less one. -/
structure TimeUnits where
  lessOne : Nat
  deriving DecidableEq, Repr, Inhabited

/-- The cost `n`, for `n` of at least 1. -/
def TimeUnits.of (n : Nat) : TimeUnits := ⟨n - 1⟩

/-- The number of time units. -/
def TimeUnits.units (t : TimeUnits) : Nat := t.lessOne + 1

/-- The configuration table `TIME`: row C holds the costs of opcode C, one for each of its variants, or one alone. The
entries of MOVE, IN, OUT and IOC are forms of the spec and not in it. -/
abbrev CostTable := List (List TimeUnits)

/-- The cost of opcode `c`, variant `v`. What a table leaves out costs 1 (log entry 21). -/
def CostTable.entry (t : CostTable) (c v : Nat) : TimeUnits := (t.getD c []).getD v (TimeUnits.of 1)

/-- The table's default figures (41_cycle.md R215), by the opcodes of 30_encoding.md R108 and R109. -/
def CostTable.default : CostTable :=
  let one := TimeUnits.of 1
  let two := TimeUnits.of 2
  let ten := TimeUnits.of 10
  [[one], [two], [two], [ten], [TimeUnits.of 12], [ten, ten, one], List.replicate 6 two, []] ++
  List.replicate 26 [two] ++
  [[one], [], [], [], [one]] ++
  [List.replicate 10 one] ++ List.replicate 8 (List.replicate 6 one) ++ List.replicate 8 (List.replicate 4 one) ++
  List.replicate 8 [two]

/-- The comparison indicator's three values (10_state.md R37). -/
inductive Cmp where
  | less
  | equal
  | greater
  deriving DecidableEq, Repr, Inhabited

/-- The two values of `SHIFT_UNIT_BITS` (00_scope.md R4): shift counts are in bytes or in bits. -/
inductive ShiftUnit where
  | byte
  | bit
  deriving DecidableEq, Repr, Inhabited

/-- `SHIFT_UNIT_BITS` as a number. -/
def ShiftUnit.bits : ShiftUnit → Nat
  | .byte => 6
  | .bit => 1

/-- The parameters of 00_scope.md R4 that an implementation chooses: `TIME`, `SHIFT_UNIT_BITS`, `DIV_REM_SIGN`,
`TAPE_BLOCK_WORDS` and `RESET_CI`. -/
structure Params where
  time : CostTable
  shiftUnit : ShiftUnit
  divRemSign : RemSign
  tapeBlockWords : Nat
  resetCi : Cmp
  deriving DecidableEq, Repr, Inhabited

/-- The defaults of 00_scope.md R4. -/
def Params.default : Params where
  time := CostTable.default
  shiftUnit := .byte
  divRemSign := .product
  tapeBlockWords := 100
  resetCi := .equal

/-! ### Devices -/

/-- The kind of a unit (49_io.md R490). -/
inductive DevKind where
  | tape
  | cardReader
  | printer
  | reserved
  deriving DecidableEq, Repr

/-- The two data operations of a device, IN and OUT (10_state.md R40). -/
inductive IoOp where
  | input
  | output
  deriving DecidableEq, Repr, Inhabited

/-- 49_io.md R490: tapes 0..7, card reader 16, line printer 18, every other unit reserved. -/
def unitKind (u : Nat) : DevKind :=
  if u ≤ 7 then .tape else if u = 16 then .cardReader else if u = 18 then .printer else .reserved

/-- The directions of a kind (49_io.md R490). -/
def DevKind.allows : DevKind → IoOp → Bool
  | .tape, _ => true
  | .cardReader, .input => true
  | .cardReader, .output => false
  | .printer, .input => false
  | .printer, .output => true
  | .reserved, _ => false

/-- `blockWords(u)` (49_io.md R490 and R495). A reserved unit has no block. -/
def DevKind.blockWords (p : Params) : DevKind → Nat
  | .tape => p.tapeBlockWords
  | .cardReader => cardBlockWords
  | .printer => printerBlockWords
  | .reserved => 0

/-- F names a unit at all: 0..20 (49_io.md R507). JBUS and JRED need no more. -/
def unitExists (f : Byte) : Bool := f.toNat < numDevices

/-- IN and OUT need an implemented unit of the right direction (49_io.md R507). -/
def unitTransfers (op : IoOp) (f : Byte) : Bool := unitExists f && (unitKind f.toNat).allows op

/-- IOC needs an implemented unit (49_io.md R507). -/
def unitControls (f : Byte) : Bool := unitExists f && decide (unitKind f.toNat ≠ .reserved)

end Sys2Proof.Machine
end

