-- ==== Sys2Proof/Machine/Alu.lean ====
section
/-! DEFINITION. The word/field library and the sign-magnitude ALU of 40_alu.md: pure functions, no state (R166). -/

namespace Sys2Proof.Machine

/-! ### Fields (R106, R150, R151) -/

/-- A VALID field specification `L:R`, `L ≤ R ≤ 5`. -/
structure FieldSpec where
  l : Nat
  r : Nat
  deriving DecidableEq, Repr

/-- 30_encoding.md R106: `F = 8L + R` is a field specification iff `L ≤ R ≤ 5`. -/
def fieldSpec (f : Byte) : Option FieldSpec :=
  let l := f.toNat / 8
  let r := f.toNat % 8
  if l ≤ r ∧ r ≤ 5 then some ⟨l, r⟩ else none

/-- `L' = max(L, 1)`: the first magnitude byte of a field. -/
def FieldSpec.first (p : FieldSpec) : Nat := max p.l 1

/-- The magnitude bytes `L'..R` of a word, byte R least significant (R150). -/
def fieldMag (w : Word) (p : FieldSpec) : Nat :=
  ((List.range' p.first (p.r + 1 - p.first)).map fun k => 64 ^ (p.r - k) * (w.byte k).toNat).sum

/-- R150 on a valid specification: the word `W(sgn, mag)`. -/
def extractField (w : Word) (p : FieldSpec) : Word :=
  Word.ofMag (if p.l = 0 then w.sign else .plus) (fieldMag w p)

/-- R151 on a valid specification: bytes `L'..R` of `d` become the rightmost bytes of `r`, and the sign too when
`L = 0`. -/
def insertField (d r : Word) (p : FieldSpec) : Word :=
  let new (k : Nat) : Byte := if p.first ≤ k ∧ k ≤ p.r then r.byte (5 - (p.r - k)) else d.byte k
  { sign := if p.l = 0 then r.sign else d.sign
    b1 := new 1, b2 := new 2, b3 := new 3, b4 := new 4, b5 := new 5 }

/-- `applyField(w, F)` (R150); `none` is `InvalidFieldSpec`. -/
def applyField (w : Word) (f : Byte) : Option Word := (fieldSpec f).map (extractField w)

/-- `storeField(d, r, F)` (R151); `none` is `InvalidFieldSpec`. -/
def storeField (d r : Word) (f : Byte) : Option Word := (fieldSpec f).map (insertField d r)

/-! ### Addition and subtraction (R152 to R154) -/

/-- `smAdd(d, s)` (R152): the result and the overflow; on overflow the magnitude is kept mod 2^30 (R153). -/
def smAdd (d s : Word) : Word × Bool :=
  if d.sign = s.sign then
    (Word.ofMag d.sign ((d.mag + s.mag) % magLimit), decide (magLimit ≤ d.mag + s.mag))
  else if s.mag < d.mag then (Word.ofMag d.sign (d.mag - s.mag), false)
  else if d.mag < s.mag then (Word.ofMag s.sign (s.mag - d.mag), false)
  else (Word.ofMag d.sign 0, false)

/-- `negate(w)` (R154). -/
def negate (w : Word) : Word := { w with sign := w.sign.flip }

/-- `smSub(d, s) = smAdd(d, negate(s))` (R154). -/
def smSub (d s : Word) : Word × Bool := smAdd d (negate s)

/-! ### Multiplication and division (R156, R157) -/

/-- `smMul(a, v) = (hi, lo)` (R156): both halves carry the product sign. -/
def smMul (a v : Word) : Word × Word :=
  let p := a.mag * v.mag
  let sg := Sign.same a.sign v.sign
  (Word.ofMag sg (p / magLimit), Word.ofMag sg (p % magLimit))

/-- `smDiv(a, x, v)` (R157): `(quotient, remainder)`, or `none` where it fails. -/
def smDiv (rule : RemSign) (a x v : Word) : Option (Word × Word) :=
  if v.mag = 0 ∨ v.mag ≤ a.mag then none
  else
    let d := magLimit * a.mag + x.mag
    let qs := Sign.same a.sign v.sign
    let rs := match rule with
      | .product => qs
      | .dividend => a.sign
    some (Word.ofMag qs (d / v.mag), Word.ofMag rs (d % v.mag))

/-! ### Shifts by `s` bits (R159 to R161) -/

/-- The 60-bit magnitude of the pair (A, X) (10_state.md R31). -/
def pairMag (a x : Word) : Nat := magLimit * a.mag + x.mag

/-- A 60-bit magnitude put back into a pair, each register keeping its own sign (R160). -/
def ofPairMag (a x : Word) (d : Nat) : Word × Word :=
  (Word.ofMag a.sign (d / magLimit), Word.ofMag x.sign (d % magLimit))

/-- `shl1` (R159). -/
def shl1 (w : Word) (s : Nat) : Word :=
  Word.ofMag w.sign (if 30 ≤ s then 0 else 2 ^ s * w.mag % magLimit)

/-- `shr1` (R159). -/
def shr1 (w : Word) (s : Nat) : Word :=
  Word.ofMag w.sign (if 30 ≤ s then 0 else w.mag / 2 ^ s)

/-- `shl2` (R160). -/
def shl2 (a x : Word) (s : Nat) : Word × Word :=
  ofPairMag a x (if 60 ≤ s then 0 else 2 ^ s * pairMag a x % 2 ^ 60)

/-- `shr2` (R160). -/
def shr2 (a x : Word) (s : Nat) : Word × Word :=
  ofPairMag a x (if 60 ≤ s then 0 else pairMag a x / 2 ^ s)

/-- `rotl2` (R161). -/
def rotl2 (a x : Word) (s : Nat) : Word × Word :=
  let k := s % 60
  ofPairMag a x (2 ^ k * pairMag a x % 2 ^ 60 + pairMag a x / 2 ^ (60 - k))

/-- `rotr2` (R161). -/
def rotr2 (a x : Word) (s : Nat) : Word × Word :=
  let k := s % 60
  ofPairMag a x (pairMag a x / 2 ^ k + 2 ^ (60 - k) * pairMag a x % 2 ^ 60)

/-! ### Decimal conversion (R162, R163) -/

/-- The ten bytes of (A, X), most significant first (R162). -/
def pairBytes (a x : Word) : List Byte :=
  [a.b1, a.b2, a.b3, a.b4, a.b5, x.b1, x.b2, x.b3, x.b4, x.b5]

/-- The number whose decimal digits, most significant first, are the given codes mod 10. -/
def digitsValue (codes : List Byte) : Nat :=
  codes.foldl (fun v c => 10 * v + c.toNat % 10) 0

/-- `wordToDecimal(a, x)` (R162). -/
def wordToDecimal (a x : Word) : Nat := digitsValue (pairBytes a x)

/-- Decimal digit `d_k` of `m` written with ten digits, `k` = 1..10 from the left (R163). -/
def decimalDigit (m k : Nat) : Nat := m / 10 ^ (10 - k) % 10

/-- The character code of that digit: `30 + d` (R163). -/
def digitCode (m k : Nat) : Byte := BitVec.ofNat 6 (30 + decimalDigit m k)

/-- `decimalToChars(m)` (R163) laid into two words that keep the given signs. -/
def decimalToChars (sa sx : Sign) (m : Nat) : Word × Word :=
  (⟨sa, digitCode m 1, digitCode m 2, digitCode m 3, digitCode m 4, digitCode m 5⟩,
   ⟨sx, digitCode m 6, digitCode m 7, digitCode m 8, digitCode m 9, digitCode m 10⟩)

end Sys2Proof.Machine
end

