-- ==== Sys2Proof/Machine/State.lean ====
section
/-! DEFINITION. The state of the machine (10_state.md) as plain data, the reasons a step can stop, and the state after
reset (10_state.md R45). -/

namespace Sys2Proof.Machine

/-- The register selector `Reg` (10_state.md R30). -/
inductive Reg where
  | A
  | X
  | I1
  | I2
  | I3
  | I4
  | I5
  | I6
  | J
  deriving DecidableEq, Repr, Inhabited

/-- The halt reasons (60_exceptions.md R550). -/
inductive HaltReason where
  /-- Raised by HLT. -/
  | halt
  /-- An address outside 0..3999, at the fetch or at an operand. -/
  | illegalAddress
  /-- A field-role opcode whose F is no field specification. -/
  | invalidFieldSpec
  /-- An index byte above 6, an undefined variant, a bad unit or a negative shift count. -/
  | invalidOpcodeOrVariant
  /-- I1..I6 or J has magnitude 4096 or more at the end of a step. -/
  | registerOverflow
  /-- A division by zero or with a quotient that does not fit. -/
  | divisionFailure
  /-- A device transfer or a control request failed. -/
  | deviceError
  deriving DecidableEq, Repr, Inhabited

/-- The halt record (60_exceptions.md R552); an empty field is `none`. -/
structure HaltInfo where
  pc : Int
  addr : Option Int := none
  reg : Option Reg := none
  unit : Option Nat := none
  text : Option String := none
  deriving DecidableEq, Repr, Inhabited

/-- The run state (10_state.md R38). -/
inductive RunState where
  | running
  | halted (reason : HaltReason) (info : HaltInfo)
  deriving DecidableEq, Repr, Inhabited

/-- A device record (10_state.md R40). -/
structure DevRec where
  addr : Int
  field : Byte
  op : IoOp
  total : Nat
  timer : Nat
  lastError : Option String
  deriving DecidableEq, Repr, Inhabited

/-- An answer the host has ready for its next device request (49_io.md R491): `err = some text` is `Err(text)`, and
`none` is `Ok` with the data given here. An item of data that is asked for and not listed is a free value (log
entry 5). -/
structure HostAnswer where
  err : Option String := none
  codes : List Byte := []
  words : List Word := []
  deriving DecidableEq, Repr, Inhabited

/-- Memory: the words that differ from `+0`, each with its address, addresses rising. The smallest unit the machine
addresses is a word (20_memory.md R70), so a cell is an address and a word (log entry 1). -/
abbrev Memory := List (Nat × Word)

/-- One profiling counter per cell (10_state.md R43): the counters that differ from 0, addresses rising. -/
abbrev Counters := List (Nat × Nat)

/-- The machine state (10_state.md). `hostIn` and `hostLog` are the model's own: the host's side of the device ports
(41_cycle.md R217), log entries 5 and 6. `params` is the configuration (00_scope.md R4), which no step
and no reset changes, log entry 8. -/
structure State where
  a : Word
  x : Word
  i1 : Word
  i2 : Word
  i3 : Word
  i4 : Word
  i5 : Word
  i6 : Word
  j : Word
  pc : Int
  ovf : Bool
  ci : Cmp
  run : RunState
  mem : Memory
  devs : List DevRec
  execCount : Counters
  execTime : Counters
  hostIn : List HostAnswer
  hostLog : List HostRequest
  params : Params
  deriving DecidableEq, Repr, Inhabited

/-- Why the model has no next state. -/
inductive Fault where
  /-- Raised by `step` alone, in a HALTED state: "A HALTED state has no step" (41_cycle.md R200, 60_exceptions.md
  R553). Safe: the spec gives no step either. -/
  | haltedHasNoStep
  deriving DecidableEq, Repr

/-- Why an instruction has no meaning. -/
inductive Refusal where
  /-- Raised by an arm of `exec` whose instruction has no meaning yet; no arm does. Safe. -/
  | notModelled (mnemonic : String)
  deriving DecidableEq, Repr

/-- `dev[u]` after reset (10_state.md R45): idle. For a reserved unit the spec names no `DEVTIME[u]`; the model takes the
same opaque table (log entry 13). -/
def DevRec.reset (u : Nat) : DevRec where
  addr := 0
  field := 0
  op := .input
  total := devTime u
  timer := 0
  lastError := none

/-- A machine with the parameters `p` right after reset (10_state.md R45). -/
def State.resetWith (p : Params) : State where
  a := Word.plusZero
  x := Word.plusZero
  i1 := Word.plusZero
  i2 := Word.plusZero
  i3 := Word.plusZero
  i4 := Word.plusZero
  i5 := Word.plusZero
  i6 := Word.plusZero
  j := Word.plusZero
  pc := 0
  ovf := false
  ci := p.resetCi
  run := .running
  mem := []
  devs := (List.range numDevices).map DevRec.reset
  execCount := []
  execTime := []
  hostIn := []
  hostLog := []
  params := p

/-- The machine right after reset (10_state.md R45), its parameters at the defaults of 00_scope.md R4. -/
def State.reset : State := State.resetWith Params.default

end Sys2Proof.Machine
end

