-- ==== Sys2Proof/Machine/Ops.lean ====
section
/-! DEFINITION. The named operations over registers, memory, the device table and the counters, the halt (the one
exception, 60_exceptions.md R556), and the ways an instruction ends (41_cycle.md R205, R207, R208). -/

namespace Sys2Proof.Machine

/-! ### Sparse tables: what an unlisted address reads as is the argument `d` -/

/-- Read a sparse table. -/
def tableRead {α : Type} (d : α) : List (Nat × α) → Nat → α
  | [], _ => d
  | (k, v) :: t, a => if a = k then v else tableRead d t a

/-- Write a sparse table, keeping it canonical: the default is not listed. -/
def tableWrite {α : Type} [DecidableEq α] (d : α) : List (Nat × α) → Nat → α → List (Nat × α)
  | [], a, v => if v = d then [] else [(a, v)]
  | (k, w) :: t, a, v =>
    if a < k then (if v = d then (k, w) :: t else (a, v) :: (k, w) :: t)
    else if a = k then (if v = d then t else (a, v) :: t)
    else (k, w) :: tableWrite d t a v

/-- The canonical form: addresses strictly rising, each at least `lo` and below 4000, no entry equal to `d`. -/
def tableWf {α : Type} [DecidableEq α] (d : α) (lo : Nat) : List (Nat × α) → Bool
  | [] => true
  | (k, v) :: t => decide (lo ≤ k) && decide (k < memWords) && decide (v ≠ d) && tableWf d (k + 1) t

/-- What an unlisted memory word reads as: its reset value `+0` (10_state.md R45, log entry 2). -/
abbrev unlistedWord : Word := Word.plusZero

/-- The canonical form of memory. -/
def Memory.wf (m : Memory) : Bool := tableWf unlistedWord 0 m

/-- The canonical form of a profiling counter table. -/
def Counters.wf (c : Counters) : Bool := tableWf 0 0 c

/-! ### Registers (10_state.md R30) -/

/-- `reg[r]`. -/
def State.reg (s : State) : Reg → Word
  | .A => s.a
  | .X => s.x
  | .I1 => s.i1
  | .I2 => s.i2
  | .I3 => s.i3
  | .I4 => s.i4
  | .I5 => s.i5
  | .I6 => s.i6
  | .J => s.j

/-- `reg[r] <- w`. -/
def State.setReg (s : State) (r : Reg) (w : Word) : State :=
  match r with
  | .A => { s with a := w }
  | .X => { s with x := w }
  | .I1 => { s with i1 := w }
  | .I2 => { s with i2 := w }
  | .I3 => { s with i3 := w }
  | .I4 => { s with i4 := w }
  | .I5 => { s with i5 := w }
  | .I6 => { s with i6 := w }
  | .J => { s with j := w }

/-- `pc <- t`. -/
def State.setPc (s : State) (t : Int) : State := { s with pc := t }

/-- `ovf <- b`. -/
def State.setOvf (s : State) (b : Bool) : State := { s with ovf := b }

/-- `ci <- c`. -/
def State.setCi (s : State) (c : Cmp) : State := { s with ci := c }

/-- `run <- r`. -/
def State.setRun (s : State) (r : RunState) : State := { s with run := r }

/-- A new memory. -/
def State.setMem (s : State) (m : Memory) : State := { s with mem := m }

/-! ### Device table (10_state.md R40) -/

/-- `dev[u]`. The table has units 0..20; every use names such a unit. -/
def State.dev (s : State) (u : Nat) : DevRec := s.devs.getD u (DevRec.reset u)

/-- `dev[u] <- d`. -/
def State.setDev (s : State) (u : Nat) (d : DevRec) : State := { s with devs := s.devs.set u d }

/-! ### The halt (41_cycle.md R205, 60_exceptions.md R550, R552, R556) -/

/-- What a phase of a step ends in: `.ok` goes on, `.error s` is the HALTED state `s` that ends the step. -/
abbrev Phase (α : Type) := Except State α

/-- `raise Halt(reason, info)` (41_cycle.md R205): the run state becomes HALTED(reason, info), every write made so far
in the step is kept, nothing else changes, and the step ends. No register is saved and control goes nowhere
(60_exceptions.md R556); no instruction returns from it (R553, R557). -/
def raiseHalt {α : Type} (reason : HaltReason) (info : HaltInfo) (s : State) : Phase α :=
  .error (s.setRun (.halted reason info))

/-- The state a phase leaves, halted or not. -/
def settle : Phase State → State
  | .ok s => s
  | .error s => s

/-- The number of a halt reason (60_exceptions.md R550). -/
def HaltReason.code : HaltReason → Nat
  | .halt => 0
  | .illegalAddress => 1
  | .invalidFieldSpec => 2
  | .invalidOpcodeOrVariant => 3
  | .registerOverflow => 4
  | .divisionFailure => 5
  | .deviceError => 6

/-- The second member of the pair shown to the host (60_exceptions.md R552): `addr` when set, `pc` otherwise. -/
def HaltInfo.shown (h : HaltInfo) : Int := h.addr.getD h.pc

/-! ### Memory access (20_memory.md R73) -/

/-- The word at an address of memory. -/
def State.wordAt (s : State) (a : Nat) : Word := tableRead unlistedWord s.mem a

/-- `mem[a] <- w`. -/
def State.putWord (s : State) (a : Nat) (w : Word) : State := s.setMem (tableWrite unlistedWord s.mem a w)

/-- The addresses that exist: 0..3999. -/
def addrOk (n : Int) : Bool := decide (0 ≤ n) && decide (n < (memWords : Int))

/-- `MemRead(n, 1)`. The halt record's pc is that of the instruction being executed, which phase EXECUTE has not
changed. -/
def memRead (n : Int) (s : State) : Phase Word :=
  if addrOk n then .ok (s.wordAt n.toNat)
  else raiseHalt .illegalAddress { pc := s.pc, addr := some n } s

/-- `MemWrite(n, 1, w)`. -/
def memWrite (n : Int) (w : Word) (s : State) : Phase State :=
  if addrOk n then .ok (s.putWord n.toNat w)
  else raiseHalt .illegalAddress { pc := s.pc, addr := some n } s

/-! ### How an instruction ends (41_cycle.md R207, R208) -/

/-- The outcome `Seq` and phase ADVANCE: `pc <- pc0 + 1`. -/
def State.seq (s : State) : State := s.setPc (s.pc + 1)

/-- The outcome `Jump(t)` and phase ADVANCE: `pc <- t`. -/
def State.jumpTo (s : State) (t : Int) : State := s.setPc t

/-- The jump primitive `takeJump(M)` (47_jump.md R438): `J <- W(+, pc0 + 1)` and `Jump(val(M))`. -/
def State.takeJump (s : State) (t : Int) : State :=
  (s.setReg .J (Word.ofMag .plus (s.pc + 1).toNat)).jumpTo t

/-- An instruction's meaning as an outcome: a halt is a next state too, with `run` HALTED (log entry 9). -/
def outcome (p : Phase State) : Host.Outcome State Fault Refusal := .next (settle p)

end Sys2Proof.Machine
end

