-- ==== Sys2Proof/Machine/Flags.lean ====
section
/-! DEFINITION. The flag computations: the comparison (40_alu.md R158), the sign predicates of the register jumps
(R165), the overflow flag (10_state.md R36) and the conditions on the comparison indicator (47_jump.md R384 to
R389). -/

namespace Sys2Proof.Machine

/-- `compare(a, b)` (40_alu.md R158): zeros of either sign are equal, two words of one sign compare by magnitude, with
the order flipped for negatives, and otherwise the positive one is greater. -/
def compareWords (a b : Word) : Cmp :=
  if a.mag = 0 ∧ b.mag = 0 then .equal
  else
    match a.sign, b.sign with
    | .plus, .minus => .greater
    | .minus, .plus => .less
    | .plus, .plus => if a.mag < b.mag then .less else if a.mag = b.mag then .equal else .greater
    | .minus, .minus => if b.mag < a.mag then .less else if a.mag = b.mag then .equal else .greater

/-- `isZero(w)` (40_alu.md R165): magnitude 0, of either sign. -/
def isZero (w : Word) : Bool := decide (w.mag = 0)

/-- `isNeg(w)` (40_alu.md R165). -/
def isNeg (w : Word) : Bool := decide (w.sign = .minus) && decide (0 < w.mag)

/-- `isPos(w)` (40_alu.md R165). -/
def isPos (w : Word) : Bool := decide (w.sign = .plus) && decide (0 < w.mag)

/-- `if o: ovf <- true`; nothing clears it here (40_alu.md R153, 10_state.md R36). -/
def State.raiseOvf (s : State) (o : Bool) : State := s.setOvf (s.ovf || o)

/-- The tests of the six register jumps (47_jump.md section 2). -/
inductive RegTest where
  | neg
  | zero
  | pos
  | nonNeg
  | nonZero
  | nonPos
  deriving DecidableEq, Repr

/-- The test on a word (40_alu.md R165). -/
def RegTest.holds (t : RegTest) (w : Word) : Bool :=
  match t with
  | .neg => isNeg w
  | .zero => isZero w
  | .pos => isPos w
  | .nonNeg => !isNeg w
  | .nonZero => !isZero w
  | .nonPos => !isPos w

/-- The tests of the six comparison jumps (47_jump.md R384 to R389). -/
inductive CiTest where
  | less
  | equal
  | greater
  | greaterEqual
  | notEqual
  | lessEqual
  deriving DecidableEq, Repr

/-- The test on the comparison indicator. -/
def CiTest.holds (t : CiTest) (c : Cmp) : Bool :=
  match t with
  | .less => decide (c = .less)
  | .equal => decide (c = .equal)
  | .greater => decide (c = .greater)
  | .greaterEqual => decide (c ≠ .less)
  | .notEqual => decide (c ≠ .equal)
  | .lessEqual => decide (c ≠ .greater)

end Sys2Proof.Machine
end

