-- ==== Sys2Proof/Machine/Operands.lean ====
section
/-! DEFINITION. The operand forms (30_encoding.md R104, R106, R113): the effective address, the field operand, the shift
count and the unit, each with the halt its check raises (41_cycle.md R207). -/

namespace Sys2Proof.Machine

/-- The word `Aw` of the address field (30_encoding.md R102), with its own sign, `−0` included. -/
def addrWord (m : Addr) : Word := Word.ofMag m.sign m.mag.toNat

/-- What an index byte selects (30_encoding.md R103): `some none` is no index, `some (some r)` the register r, and
`none` a byte above 6. -/
def indexReg (idx : Byte) : Option (Option Reg) :=
  match idx.toNat with
  | 0 => some none
  | 1 => some (some .I1)
  | 2 => some (some .I2)
  | 3 => some (some .I3)
  | 4 => some (some .I4)
  | 5 => some (some .I5)
  | 6 => some (some .I6)
  | _ => none

/-- The halt `InvalidOpcodeOrVariant` raised by an instruction at its own address. -/
def invalidInstr {α : Type} (s : State) : Phase α :=
  raiseHalt .invalidOpcodeOrVariant { pc := s.pc } s

/-- The index check (41_cycle.md R203) and the effective address M (30_encoding.md R104): a word, formed by
sign-magnitude addition with the address field as destination. -/
def effAddr (m : Addr) (s : State) : Phase Word :=
  match indexReg m.idx with
  | none => invalidInstr s
  | some none => .ok (addrWord m)
  | some (some r) => .ok (smAdd (addrWord m) (s.reg r)).1

/-- The field check of a field-role opcode (30_encoding.md R106). -/
def fieldOf (f : Byte) (s : State) : Phase FieldSpec :=
  match fieldSpec f with
  | some p => .ok p
  | none => raiseHalt .invalidFieldSpec { pc := s.pc } s

/-- The source operand of the loads, the arithmetic and the compares: M, the field check, then
`applyField(MemRead(M, 1), F)`, in that order (41_cycle.md R207). It answers the field too. -/
def fieldOperand (m : Addr) (f : Byte) (s : State) : Phase (FieldSpec × Word) := do
  let ma ← effAddr m s
  let p ← fieldOf f s
  let w ← memRead ma.val s
  return (p, extractField w p)

/-- The shift count `n` (45_shift_move.md R347): `mag(M)`, and a negative non-zero M halts. -/
def shiftCount (ma : Word) (s : State) : Phase Nat :=
  if ma.mag = 0 then .ok 0
  else
    match ma.sign with
    | .plus => .ok ma.mag
    | .minus => invalidInstr s

/-- The shift distance in bits, `n · SHIFT_UNIT_BITS` (45_shift_move.md R347). -/
def shiftBits (m : Addr) (s : State) : Phase Nat := do
  let ma ← effAddr m s
  let n ← shiftCount ma s
  return n * s.params.shiftUnit.bits

/-- The unit check of an I/O instruction (49_io.md R507): `ok` is the test its F must pass. -/
def unitOf (ok : Bool) (f : Byte) (s : State) : Phase Nat :=
  if ok then .ok f.toNat else invalidInstr s

end Sys2Proof.Machine
end

