-- ==== Sys2Proof/Machine/AddrTransfer.lean ====
section
/-! DEFINITION. The address transfer instructions (48_address_transfer.md R450 to R481): M is a signed immediate. -/

namespace Sys2Proof.Machine

/-- R450: `(v, o) := smAdd(reg[r], M); reg[r] <- v; if o: ovf <- true`. -/
def incReg (r : Reg) (m : Addr) (s : State) : Phase State := do
  let ma ← effAddr m s
  let sum := smAdd (s.reg r) ma
  return ((s.setReg r sum.1).raiseOvf sum.2).seq

/-- R451: as R450, with `smSub`. -/
def decReg (r : Reg) (m : Addr) (s : State) : Phase State := do
  let ma ← effAddr m s
  let diff := smSub (s.reg r) ma
  return ((s.setReg r diff.1).raiseOvf diff.2).seq

/-- R452: `reg[r] <- M`. -/
def entReg (r : Reg) (m : Addr) (s : State) : Phase State := do
  let ma ← effAddr m s
  return (s.setReg r ma).seq

/-- R453: `reg[r] <- negate(M)`. -/
def ennReg (r : Reg) (m : Addr) (s : State) : Phase State := do
  let ma ← effAddr m s
  return (s.setReg r (negate ma)).seq

/-- INCA (R450). -/
def execInca (m : Addr) (s : State) : Host.Outcome State Fault Refusal :=
  outcome (incReg .A m s)

/-- DECA (R451). -/
def execDeca (m : Addr) (s : State) : Host.Outcome State Fault Refusal :=
  outcome (decReg .A m s)

/-- ENTA (R452). -/
def execEnta (m : Addr) (s : State) : Host.Outcome State Fault Refusal :=
  outcome (entReg .A m s)

/-- ENNA (R453). -/
def execEnna (m : Addr) (s : State) : Host.Outcome State Fault Refusal :=
  outcome (ennReg .A m s)

/-- INC1 (R454). -/
def execInc1 (m : Addr) (s : State) : Host.Outcome State Fault Refusal :=
  outcome (incReg .I1 m s)

/-- DEC1 (R455). -/
def execDec1 (m : Addr) (s : State) : Host.Outcome State Fault Refusal :=
  outcome (decReg .I1 m s)

/-- ENT1 (R456). -/
def execEnt1 (m : Addr) (s : State) : Host.Outcome State Fault Refusal :=
  outcome (entReg .I1 m s)

/-- ENN1 (R457). -/
def execEnn1 (m : Addr) (s : State) : Host.Outcome State Fault Refusal :=
  outcome (ennReg .I1 m s)

/-- INC2 (R458). -/
def execInc2 (m : Addr) (s : State) : Host.Outcome State Fault Refusal :=
  outcome (incReg .I2 m s)

/-- DEC2 (R459). -/
def execDec2 (m : Addr) (s : State) : Host.Outcome State Fault Refusal :=
  outcome (decReg .I2 m s)

/-- ENT2 (R460). -/
def execEnt2 (m : Addr) (s : State) : Host.Outcome State Fault Refusal :=
  outcome (entReg .I2 m s)

/-- ENN2 (R461). -/
def execEnn2 (m : Addr) (s : State) : Host.Outcome State Fault Refusal :=
  outcome (ennReg .I2 m s)

/-- INC3 (R462). -/
def execInc3 (m : Addr) (s : State) : Host.Outcome State Fault Refusal :=
  outcome (incReg .I3 m s)

/-- DEC3 (R463). -/
def execDec3 (m : Addr) (s : State) : Host.Outcome State Fault Refusal :=
  outcome (decReg .I3 m s)

/-- ENT3 (R464). -/
def execEnt3 (m : Addr) (s : State) : Host.Outcome State Fault Refusal :=
  outcome (entReg .I3 m s)

/-- ENN3 (R465). -/
def execEnn3 (m : Addr) (s : State) : Host.Outcome State Fault Refusal :=
  outcome (ennReg .I3 m s)

/-- INC4 (R466). -/
def execInc4 (m : Addr) (s : State) : Host.Outcome State Fault Refusal :=
  outcome (incReg .I4 m s)

/-- DEC4 (R467). -/
def execDec4 (m : Addr) (s : State) : Host.Outcome State Fault Refusal :=
  outcome (decReg .I4 m s)

/-- ENT4 (R468). -/
def execEnt4 (m : Addr) (s : State) : Host.Outcome State Fault Refusal :=
  outcome (entReg .I4 m s)

/-- ENN4 (R469). -/
def execEnn4 (m : Addr) (s : State) : Host.Outcome State Fault Refusal :=
  outcome (ennReg .I4 m s)

/-- INC5 (R470). -/
def execInc5 (m : Addr) (s : State) : Host.Outcome State Fault Refusal :=
  outcome (incReg .I5 m s)

/-- DEC5 (R471). -/
def execDec5 (m : Addr) (s : State) : Host.Outcome State Fault Refusal :=
  outcome (decReg .I5 m s)

/-- ENT5 (R472). -/
def execEnt5 (m : Addr) (s : State) : Host.Outcome State Fault Refusal :=
  outcome (entReg .I5 m s)

/-- ENN5 (R473). -/
def execEnn5 (m : Addr) (s : State) : Host.Outcome State Fault Refusal :=
  outcome (ennReg .I5 m s)

/-- INC6 (R474). -/
def execInc6 (m : Addr) (s : State) : Host.Outcome State Fault Refusal :=
  outcome (incReg .I6 m s)

/-- DEC6 (R475). -/
def execDec6 (m : Addr) (s : State) : Host.Outcome State Fault Refusal :=
  outcome (decReg .I6 m s)

/-- ENT6 (R476). -/
def execEnt6 (m : Addr) (s : State) : Host.Outcome State Fault Refusal :=
  outcome (entReg .I6 m s)

/-- ENN6 (R477). -/
def execEnn6 (m : Addr) (s : State) : Host.Outcome State Fault Refusal :=
  outcome (ennReg .I6 m s)

/-- INCX (R478). -/
def execIncx (m : Addr) (s : State) : Host.Outcome State Fault Refusal :=
  outcome (incReg .X m s)

/-- DECX (R479). -/
def execDecx (m : Addr) (s : State) : Host.Outcome State Fault Refusal :=
  outcome (decReg .X m s)

/-- ENTX (R480). -/
def execEntx (m : Addr) (s : State) : Host.Outcome State Fault Refusal :=
  outcome (entReg .X m s)

/-- ENNX (R481). -/
def execEnnx (m : Addr) (s : State) : Host.Outcome State Fault Refusal :=
  outcome (ennReg .X m s)

end Sys2Proof.Machine
end

