-- ==== Sys2Proof/Machine/Arith.lean ====
section
/-! DEFINITION. The arithmetic instructions (43_arithmetic.md R300 to R303). -/

namespace Sys2Proof.Machine

/-- R300: `(r, o) := smAdd(reg[A], v); reg[A] <- r; if o: ovf <- true`. -/
def addToA (m : Addr) (f : Byte) (s : State) : Phase State := do
  let o ← fieldOperand m f s
  let sum := smAdd s.a o.2
  return ((s.setReg .A sum.1).raiseOvf sum.2).seq

/-- R301: as R300, with `smSub`. -/
def subFromA (m : Addr) (f : Byte) (s : State) : Phase State := do
  let o ← fieldOperand m f s
  let diff := smSub s.a o.2
  return ((s.setReg .A diff.1).raiseOvf diff.2).seq

/-- R302: `(hi, lo) := smMul(reg[A], v); reg[A] <- hi; reg[X] <- lo`. -/
def multiplyA (m : Addr) (f : Byte) (s : State) : Phase State := do
  let o ← fieldOperand m f s
  let prod := smMul s.a o.2
  return ((s.setReg .A prod.1).setReg .X prod.2).seq

/-- What DIV does with the result of the division (R303): on `Ok(q, r)` A and X are written; on `Fail` ovf is set and the
step halts with `DivisionFailure`, A and X as they were. -/
def endDivision (s : State) : Option (Word × Word) → Phase State
  | some d => .ok ((s.setReg .A d.1).setReg .X d.2).seq
  | none => raiseHalt .divisionFailure { pc := s.pc } (s.setOvf true)

/-- R303: the division of (A, X) by the field operand, the remainder's sign by `rule`. -/
def divideAX (rule : RemSign) (m : Addr) (f : Byte) (s : State) : Phase State := do
  let o ← fieldOperand m f s
  endDivision s (smDiv rule s.a s.x o.2)

/-- ADD (R300). -/
def execAdd (m : Addr) (f : Byte) (s : State) : Host.Outcome State Fault Refusal :=
  outcome (addToA m f s)

/-- SUB (R301). -/
def execSub (m : Addr) (f : Byte) (s : State) : Host.Outcome State Fault Refusal :=
  outcome (subFromA m f s)

/-- MUL (R302). -/
def execMul (m : Addr) (f : Byte) (s : State) : Host.Outcome State Fault Refusal :=
  outcome (multiplyA m f s)

/-- DIV (R303), with the parameter `DIV_REM_SIGN`. -/
def execDiv (m : Addr) (f : Byte) (s : State) : Host.Outcome State Fault Refusal :=
  outcome (divideAX s.params.divRemSign m f s)

end Sys2Proof.Machine
end

