-- ==== Sys2Proof/Machine/Compare.lean ====
section
/-! DEFINITION. The comparisons (46_compare.md R360 to R367). -/

namespace Sys2Proof.Machine

/-- R360: `b := applyField(MemRead(M, 1), F); a := applyField(reg[r], F); ci <- compare(a, b)`. -/
def compareReg (r : Reg) (m : Addr) (f : Byte) (s : State) : Phase State := do
  let o ← fieldOperand m f s
  return (s.setCi (compareWords (extractField (s.reg r) o.1) o.2)).seq

/-- CMPA (R360). -/
def execCmpa (m : Addr) (f : Byte) (s : State) : Host.Outcome State Fault Refusal :=
  outcome (compareReg .A m f s)

/-- CMP1 (R361). -/
def execCmp1 (m : Addr) (f : Byte) (s : State) : Host.Outcome State Fault Refusal :=
  outcome (compareReg .I1 m f s)

/-- CMP2 (R362). -/
def execCmp2 (m : Addr) (f : Byte) (s : State) : Host.Outcome State Fault Refusal :=
  outcome (compareReg .I2 m f s)

/-- CMP3 (R363). -/
def execCmp3 (m : Addr) (f : Byte) (s : State) : Host.Outcome State Fault Refusal :=
  outcome (compareReg .I3 m f s)

/-- CMP4 (R364). -/
def execCmp4 (m : Addr) (f : Byte) (s : State) : Host.Outcome State Fault Refusal :=
  outcome (compareReg .I4 m f s)

/-- CMP5 (R365). -/
def execCmp5 (m : Addr) (f : Byte) (s : State) : Host.Outcome State Fault Refusal :=
  outcome (compareReg .I5 m f s)

/-- CMP6 (R366). -/
def execCmp6 (m : Addr) (f : Byte) (s : State) : Host.Outcome State Fault Refusal :=
  outcome (compareReg .I6 m f s)

/-- CMPX (R367). -/
def execCmpx (m : Addr) (f : Byte) (s : State) : Host.Outcome State Fault Refusal :=
  outcome (compareReg .X m f s)

end Sys2Proof.Machine
end

