-- ==== Sys2Proof/Machine/Device.lean ====
section
/-! DEFINITION. The devices (49_io.md): the host ports (R491), the transfers (R495 to R501), the timer phases (R492),
arming with forced completion (R493) and the timer update (R494). `pc0` is the address of the instruction of the
current step. -/

namespace Sys2Proof.Machine

/-! ### Host ports (R491) -/

/-- The requests made so far, this one last: what a free answer may depend on. -/
def State.history (s : State) (req : HostRequest) : List HostRequest := s.hostLog ++ [req]

/-- The host's answer to a request: `some text` is `Err(text)`, `none` is `Ok`. A free input of the step: the next
answer in `hostIn`, or the free value when there is none (log entry 5). -/
def hostErr (s : State) (req : HostRequest) : Option String :=
  match s.hostIn with
  | [] => Config.hostErr (s.history req)
  | ans :: _ => ans.err

/-- The code `c[k]` of an `Ok` answer to `readCard`. -/
def hostCode (s : State) (req : HostRequest) (k : Nat) : Byte :=
  match s.hostIn with
  | [] => Config.hostCode (s.history req) k
  | ans :: _ => ans.codes.getD k (Config.hostCode (s.history req) k)

/-- The word `w[k]` of an `Ok` answer to `tapeRead`. -/
def hostWord (s : State) (req : HostRequest) (k : Nat) : Word :=
  match s.hostIn with
  | [] => Config.hostWord (s.history req) k
  | ans :: _ => ans.words.getD k (Config.hostWord (s.history req) k)

/-- The request is made and its answer taken. -/
def State.logRequest (s : State) (req : HostRequest) : State :=
  { s with hostIn := s.hostIn.tail, hostLog := s.history req }

/-! ### Transfers (R495 to R501) -/

/-- `Fail(u, text)` (R497): `lastError` is written and the step halts with `DeviceError`. -/
def failUnit {α : Type} (pc0 : Int) (u : Nat) (text : String) (s : State) : Phase α :=
  raiseHalt .deviceError { pc := pc0, unit := some u, text := some text }
    (s.setDev u { s.dev u with lastError := some text })

/-- The text of a failed block check (R495). -/
def badTargetText : String := "bad target address"

/-- The words at addresses `a .. a+n−1`. -/
def readBlock (s : State) (a n : Nat) : List Word := (List.range n).map fun k => s.wordAt (a + k)

/-- Write words to consecutive addresses from `a` on, in increasing order. -/
def writeBlock (s : State) (a : Nat) : List Word → State
  | [] => s
  | w :: ws => writeBlock (s.putWord a w) (a + 1) ws

/-- Word `k` of a card (R498): sign `+`, characters `5k .. 5k+4` in bytes 1..5. -/
def cardWord (code : Nat → Byte) (k : Nat) : Word :=
  ⟨.plus, code (5 * k), code (5 * k + 1), code (5 * k + 2), code (5 * k + 3), code (5 * k + 4)⟩

/-- The five codes of a word, byte 1 first (R499); its sign is not printed. -/
def wordCodes (w : Word) : List Byte := [w.b1, w.b2, w.b3, w.b4, w.b5]

/-- Make a request and go on only if the host answers `Ok` (R497). -/
def askHost (pc0 : Int) (u : Nat) (req : HostRequest) (s : State) : Phase State :=
  match hostErr s req with
  | some text => failUnit pc0 u text (s.logRequest req)
  | none => .ok (s.logRequest req)

/-- `CardIn(u, a)` (R498). -/
def cardIn (pc0 : Int) (u a : Nat) (s : State) : Phase State := do
  let t ← askHost pc0 u .readCard s
  return writeBlock t a ((List.range cardBlockWords).map (cardWord (hostCode s .readCard)))

/-- `PrinterOut(u, a)` (R499): memory is read now. -/
def printerOut (pc0 : Int) (u a : Nat) (s : State) : Phase State :=
  askHost pc0 u (.printLine ((readBlock s a printerBlockWords).flatMap wordCodes)) s

/-- `TapeIn(u, a)` (R500). -/
def tapeIn (pc0 : Int) (u a : Nat) (s : State) : Phase State := do
  let t ← askHost pc0 u (.tapeRead u) s
  return writeBlock t a ((List.range s.params.tapeBlockWords).map (hostWord s (.tapeRead u)))

/-- `TapeOut(u, a)` (R501): memory is read now. -/
def tapeOut (pc0 : Int) (u a : Nat) (s : State) : Phase State :=
  askHost pc0 u (.tapeWrite u (readBlock s a s.params.tapeBlockWords)) s

/-- The whole block `a .. a+n−1` lies in memory (R496). -/
def blockOk (a : Int) (n : Nat) : Bool := decide (0 ≤ a) && decide (a + n ≤ (memWords : Int))

/-- `Transfer(u)` (R495): the block check, then the data. A pair of kind and direction that R490 does not allow cannot be
pending in a state a run reaches (R495); there the model transfers nothing (log entry 12). -/
def transfer (pc0 : Int) (u : Nat) (s : State) : Phase State :=
  let d := s.dev u
  if blockOk d.addr ((unitKind u).blockWords s.params) then
    match unitKind u, d.op with
    | .cardReader, .input => cardIn pc0 u d.addr.toNat s
    | .printer, .output => printerOut pc0 u d.addr.toNat s
    | .tape, .input => tapeIn pc0 u d.addr.toNat s
    | .tape, .output => tapeOut pc0 u d.addr.toNat s
    | .cardReader, .output => .ok s
    | .printer, .input => .ok s
    | .reserved, _ => .ok s
  else failUnit pc0 u badTargetText s

/-! ### Phases of a unit, arming, and the timer update (R492 to R494) -/

/-- `h(u)`: the half-total-time threshold (R492). -/
def DevRec.threshold (d : DevRec) : Nat := d.total / 2

/-- `done(u)` (10_state.md R41). -/
def DevRec.done (d : DevRec) : Bool := decide (d.timer ≤ d.threshold)

/-- The unit is waiting: armed, its transfer still to come (R492). -/
def DevRec.waiting (d : DevRec) : Bool := decide (0 < d.timer) && !d.done

/-- The unit is busy: its timer runs (R502). -/
def DevRec.busy (d : DevRec) : Bool := decide (0 < d.timer)

/-- A waiting unit's transfer is forced to completion now (R493, R506). -/
def forceWaiting (pc0 : Int) (u : Nat) (s : State) : Phase State :=
  if (s.dev u).waiting then transfer pc0 u s else .ok s

/-- `Arm(u, op, M, F)` (R493). -/
def arm (pc0 : Int) (u : Nat) (op : IoOp) (ma : Word) (f : Byte) (s : State) : Phase State := do
  let t ← forceWaiting pc0 u s
  return t.setDev u
    { t.dev u with addr := ma.val, field := f, op := op, total := devTime u, timer := devTime u }

/-- One unit's turn in `IOUpdate(cost)` (R494): the timer is written, then the transfer happens if the timer crossed the
threshold. -/
def updateUnit (pc0 : Int) (cost u : Nat) (s : State) : Phase State :=
  let d := s.dev u
  if d.timer = 0 then .ok s
  else
    let left := d.timer - cost
    let t := s.setDev u { d with timer := left }
    if d.threshold < d.timer ∧ left ≤ d.threshold then transfer pc0 u t else .ok t

/-- The turn of one unit, unless it is the unit armed in this step (R494). -/
def unitTurn (pc0 : Int) (cost : Nat) (armed : Option Nat) (u : Nat) (s : State) : Phase State :=
  if armed = some u then .ok s else updateUnit pc0 cost u s

/-- `IOUpdate(cost)` on a list of units, in its order; the first failing transfer ends it (R494). -/
def updateUnits (pc0 : Int) (cost : Nat) (armed : Option Nat) : List Nat → State → Phase State
  | [], s => .ok s
  | u :: us, s => do
    let t ← unitTurn pc0 cost armed u s
    updateUnits pc0 cost armed us t

/-- `IOUpdate(cost)` (R494): units 0..20 in ascending order, but for the unit armed in this step. -/
def ioUpdate (pc0 : Int) (cost : Nat) (armed : Option Nat) (s : State) : Phase State :=
  updateUnits pc0 cost armed (List.range numDevices) s

end Sys2Proof.Machine
end

