-- ==== Sys2Proof/Machine/InputOutput.lean ====
section
/-! DEFINITION. The I/O instructions (49_io.md R502 to R507). -/

namespace Sys2Proof.Machine

/-- R502: `check unit u; if dev[u].timer > 0: takeJump(M) else return Seq`. -/
def jumpBusy (m : Addr) (f : Byte) (s : State) : Phase State := do
  let ma ← effAddr m s
  let u ← unitOf (unitExists f) f s
  return if (s.dev u).busy then s.takeJump ma.val else s.seq

/-- R503: `check unit u; if dev[u].timer = 0: takeJump(M) else return Seq`. -/
def jumpReady (m : Addr) (f : Byte) (s : State) : Phase State := do
  let ma ← effAddr m s
  let u ← unitOf (unitExists f) f s
  return if (s.dev u).busy then s.seq else s.takeJump ma.val

/-- R504 and R505: `check unit u for the direction; Arm(u, op, M, F)`. M is not checked here (R496). -/
def startIo (op : IoOp) (m : Addr) (f : Byte) (s : State) : Phase State := do
  let ma ← effAddr m s
  let u ← unitOf (unitTransfers op f) f s
  let t ← arm s.pc u op ma f s
  return t.seq

/-- R506: a waiting transfer is forced, the unit becomes idle, and the host is asked to act on M. -/
def controlUnit (m : Addr) (f : Byte) (s : State) : Phase State := do
  let ma ← effAddr m s
  let u ← unitOf (unitControls f) f s
  let t ← forceWaiting s.pc u s
  let t' ← askHost s.pc u (.hostControl u ma) (t.setDev u { t.dev u with timer := 0 })
  return t'.seq

/-- JBUS (R502). -/
def execJbus (m : Addr) (f : Byte) (s : State) : Host.Outcome State Fault Refusal :=
  outcome (jumpBusy m f s)

/-- IOC (R506). -/
def execIoc (m : Addr) (f : Byte) (s : State) : Host.Outcome State Fault Refusal :=
  outcome (controlUnit m f s)

/-- IN (R504). -/
def execIn (m : Addr) (f : Byte) (s : State) : Host.Outcome State Fault Refusal :=
  outcome (startIo .input m f s)

/-- OUT (R505). -/
def execOut (m : Addr) (f : Byte) (s : State) : Host.Outcome State Fault Refusal :=
  outcome (startIo .output m f s)

/-- JRED (R503). -/
def execJred (m : Addr) (f : Byte) (s : State) : Host.Outcome State Fault Refusal :=
  outcome (jumpReady m f s)

end Sys2Proof.Machine
end

