-- ==== Sys2Proof/Machine/Jump.lean ====
section
/-! DEFINITION. The jumps (47_jump.md R380 to R438). The target is not range-checked (R438). -/

namespace Sys2Proof.Machine

/-- R380: `takeJump(M)`. -/
def jumpAlways (m : Addr) (s : State) : Phase State := do
  let ma ← effAddr m s
  return s.takeJump ma.val

/-- R381, the "stay" jump: `return Jump(val(M))`, J as it was. -/
def jumpSaveJ (m : Addr) (s : State) : Phase State := do
  let ma ← effAddr m s
  return s.jumpTo ma.val

/-- R382: `if ovf: ovf <- false; takeJump(M) else return Seq`. -/
def jumpOverflow (m : Addr) (s : State) : Phase State := do
  let ma ← effAddr m s
  return if s.ovf then (s.setOvf false).takeJump ma.val else s.seq

/-- R383: `if not ovf: takeJump(M) else ovf <- false; return Seq`. -/
def jumpNoOverflow (m : Addr) (s : State) : Phase State := do
  let ma ← effAddr m s
  return if s.ovf then (s.setOvf false).seq else s.takeJump ma.val

/-- R384 to R389: `if the test holds of ci: takeJump(M) else return Seq`. -/
def jumpCi (t : CiTest) (m : Addr) (s : State) : Phase State := do
  let ma ← effAddr m s
  return if t.holds s.ci then s.takeJump ma.val else s.seq

/-- R390 to R437: `if the test holds of reg[r]: takeJump(M) else return Seq`. -/
def jumpReg (r : Reg) (t : RegTest) (m : Addr) (s : State) : Phase State := do
  let ma ← effAddr m s
  return if t.holds (s.reg r) then s.takeJump ma.val else s.seq

/-- JMP (R380). -/
def execJmp (m : Addr) (s : State) : Host.Outcome State Fault Refusal :=
  outcome (jumpAlways m s)

/-- JSJ (R381). -/
def execJsj (m : Addr) (s : State) : Host.Outcome State Fault Refusal :=
  outcome (jumpSaveJ m s)

/-- JOV (R382). -/
def execJov (m : Addr) (s : State) : Host.Outcome State Fault Refusal :=
  outcome (jumpOverflow m s)

/-- JNOV (R383). -/
def execJnov (m : Addr) (s : State) : Host.Outcome State Fault Refusal :=
  outcome (jumpNoOverflow m s)

/-- JL (R384). -/
def execJl (m : Addr) (s : State) : Host.Outcome State Fault Refusal :=
  outcome (jumpCi .less m s)

/-- JE (R385). -/
def execJe (m : Addr) (s : State) : Host.Outcome State Fault Refusal :=
  outcome (jumpCi .equal m s)

/-- JG (R386). -/
def execJg (m : Addr) (s : State) : Host.Outcome State Fault Refusal :=
  outcome (jumpCi .greater m s)

/-- JGE (R387). -/
def execJge (m : Addr) (s : State) : Host.Outcome State Fault Refusal :=
  outcome (jumpCi .greaterEqual m s)

/-- JNE (R388). -/
def execJne (m : Addr) (s : State) : Host.Outcome State Fault Refusal :=
  outcome (jumpCi .notEqual m s)

/-- JLE (R389). -/
def execJle (m : Addr) (s : State) : Host.Outcome State Fault Refusal :=
  outcome (jumpCi .lessEqual m s)

/-- JAN (R390). -/
def execJan (m : Addr) (s : State) : Host.Outcome State Fault Refusal :=
  outcome (jumpReg .A .neg m s)

/-- JAZ (R391). -/
def execJaz (m : Addr) (s : State) : Host.Outcome State Fault Refusal :=
  outcome (jumpReg .A .zero m s)

/-- JAP (R392). -/
def execJap (m : Addr) (s : State) : Host.Outcome State Fault Refusal :=
  outcome (jumpReg .A .pos m s)

/-- JANN (R393). -/
def execJann (m : Addr) (s : State) : Host.Outcome State Fault Refusal :=
  outcome (jumpReg .A .nonNeg m s)

/-- JANZ (R394). -/
def execJanz (m : Addr) (s : State) : Host.Outcome State Fault Refusal :=
  outcome (jumpReg .A .nonZero m s)

/-- JANP (R395). -/
def execJanp (m : Addr) (s : State) : Host.Outcome State Fault Refusal :=
  outcome (jumpReg .A .nonPos m s)

/-- J1N (R396). -/
def execJ1n (m : Addr) (s : State) : Host.Outcome State Fault Refusal :=
  outcome (jumpReg .I1 .neg m s)

/-- J1Z (R397). -/
def execJ1z (m : Addr) (s : State) : Host.Outcome State Fault Refusal :=
  outcome (jumpReg .I1 .zero m s)

/-- J1P (R398). -/
def execJ1p (m : Addr) (s : State) : Host.Outcome State Fault Refusal :=
  outcome (jumpReg .I1 .pos m s)

/-- J1NN (R399). -/
def execJ1nn (m : Addr) (s : State) : Host.Outcome State Fault Refusal :=
  outcome (jumpReg .I1 .nonNeg m s)

/-- J1NZ (R400). -/
def execJ1nz (m : Addr) (s : State) : Host.Outcome State Fault Refusal :=
  outcome (jumpReg .I1 .nonZero m s)

/-- J1NP (R401). -/
def execJ1np (m : Addr) (s : State) : Host.Outcome State Fault Refusal :=
  outcome (jumpReg .I1 .nonPos m s)

/-- J2N (R402). -/
def execJ2n (m : Addr) (s : State) : Host.Outcome State Fault Refusal :=
  outcome (jumpReg .I2 .neg m s)

/-- J2Z (R403). -/
def execJ2z (m : Addr) (s : State) : Host.Outcome State Fault Refusal :=
  outcome (jumpReg .I2 .zero m s)

/-- J2P (R404). -/
def execJ2p (m : Addr) (s : State) : Host.Outcome State Fault Refusal :=
  outcome (jumpReg .I2 .pos m s)

/-- J2NN (R405). -/
def execJ2nn (m : Addr) (s : State) : Host.Outcome State Fault Refusal :=
  outcome (jumpReg .I2 .nonNeg m s)

/-- J2NZ (R406). -/
def execJ2nz (m : Addr) (s : State) : Host.Outcome State Fault Refusal :=
  outcome (jumpReg .I2 .nonZero m s)

/-- J2NP (R407). -/
def execJ2np (m : Addr) (s : State) : Host.Outcome State Fault Refusal :=
  outcome (jumpReg .I2 .nonPos m s)

/-- J3N (R408). -/
def execJ3n (m : Addr) (s : State) : Host.Outcome State Fault Refusal :=
  outcome (jumpReg .I3 .neg m s)

/-- J3Z (R409). -/
def execJ3z (m : Addr) (s : State) : Host.Outcome State Fault Refusal :=
  outcome (jumpReg .I3 .zero m s)

/-- J3P (R410). -/
def execJ3p (m : Addr) (s : State) : Host.Outcome State Fault Refusal :=
  outcome (jumpReg .I3 .pos m s)

/-- J3NN (R411). -/
def execJ3nn (m : Addr) (s : State) : Host.Outcome State Fault Refusal :=
  outcome (jumpReg .I3 .nonNeg m s)

/-- J3NZ (R412). -/
def execJ3nz (m : Addr) (s : State) : Host.Outcome State Fault Refusal :=
  outcome (jumpReg .I3 .nonZero m s)

/-- J3NP (R413). -/
def execJ3np (m : Addr) (s : State) : Host.Outcome State Fault Refusal :=
  outcome (jumpReg .I3 .nonPos m s)

/-- J4N (R414). -/
def execJ4n (m : Addr) (s : State) : Host.Outcome State Fault Refusal :=
  outcome (jumpReg .I4 .neg m s)

/-- J4Z (R415). -/
def execJ4z (m : Addr) (s : State) : Host.Outcome State Fault Refusal :=
  outcome (jumpReg .I4 .zero m s)

/-- J4P (R416). -/
def execJ4p (m : Addr) (s : State) : Host.Outcome State Fault Refusal :=
  outcome (jumpReg .I4 .pos m s)

/-- J4NN (R417). -/
def execJ4nn (m : Addr) (s : State) : Host.Outcome State Fault Refusal :=
  outcome (jumpReg .I4 .nonNeg m s)

/-- J4NZ (R418). -/
def execJ4nz (m : Addr) (s : State) : Host.Outcome State Fault Refusal :=
  outcome (jumpReg .I4 .nonZero m s)

/-- J4NP (R419). -/
def execJ4np (m : Addr) (s : State) : Host.Outcome State Fault Refusal :=
  outcome (jumpReg .I4 .nonPos m s)

/-- J5N (R420). -/
def execJ5n (m : Addr) (s : State) : Host.Outcome State Fault Refusal :=
  outcome (jumpReg .I5 .neg m s)

/-- J5Z (R421). -/
def execJ5z (m : Addr) (s : State) : Host.Outcome State Fault Refusal :=
  outcome (jumpReg .I5 .zero m s)

/-- J5P (R422). -/
def execJ5p (m : Addr) (s : State) : Host.Outcome State Fault Refusal :=
  outcome (jumpReg .I5 .pos m s)

/-- J5NN (R423). -/
def execJ5nn (m : Addr) (s : State) : Host.Outcome State Fault Refusal :=
  outcome (jumpReg .I5 .nonNeg m s)

/-- J5NZ (R424). -/
def execJ5nz (m : Addr) (s : State) : Host.Outcome State Fault Refusal :=
  outcome (jumpReg .I5 .nonZero m s)

/-- J5NP (R425). -/
def execJ5np (m : Addr) (s : State) : Host.Outcome State Fault Refusal :=
  outcome (jumpReg .I5 .nonPos m s)

/-- J6N (R426). -/
def execJ6n (m : Addr) (s : State) : Host.Outcome State Fault Refusal :=
  outcome (jumpReg .I6 .neg m s)

/-- J6Z (R427). -/
def execJ6z (m : Addr) (s : State) : Host.Outcome State Fault Refusal :=
  outcome (jumpReg .I6 .zero m s)

/-- J6P (R428). -/
def execJ6p (m : Addr) (s : State) : Host.Outcome State Fault Refusal :=
  outcome (jumpReg .I6 .pos m s)

/-- J6NN (R429). -/
def execJ6nn (m : Addr) (s : State) : Host.Outcome State Fault Refusal :=
  outcome (jumpReg .I6 .nonNeg m s)

/-- J6NZ (R430). -/
def execJ6nz (m : Addr) (s : State) : Host.Outcome State Fault Refusal :=
  outcome (jumpReg .I6 .nonZero m s)

/-- J6NP (R431). -/
def execJ6np (m : Addr) (s : State) : Host.Outcome State Fault Refusal :=
  outcome (jumpReg .I6 .nonPos m s)

/-- JXN (R432). -/
def execJxn (m : Addr) (s : State) : Host.Outcome State Fault Refusal :=
  outcome (jumpReg .X .neg m s)

/-- JXZ (R433). -/
def execJxz (m : Addr) (s : State) : Host.Outcome State Fault Refusal :=
  outcome (jumpReg .X .zero m s)

/-- JXP (R434). -/
def execJxp (m : Addr) (s : State) : Host.Outcome State Fault Refusal :=
  outcome (jumpReg .X .pos m s)

/-- JXNN (R435). -/
def execJxnn (m : Addr) (s : State) : Host.Outcome State Fault Refusal :=
  outcome (jumpReg .X .nonNeg m s)

/-- JXNZ (R436). -/
def execJxnz (m : Addr) (s : State) : Host.Outcome State Fault Refusal :=
  outcome (jumpReg .X .nonZero m s)

/-- JXNP (R437). -/
def execJxnp (m : Addr) (s : State) : Host.Outcome State Fault Refusal :=
  outcome (jumpReg .X .nonPos m s)

end Sys2Proof.Machine
end

