-- ==== Sys2Proof/Machine/Load.lean ====
section
/-! DEFINITION. The loads and the negative loads (42_load_store.md R250 to R265). -/

namespace Sys2Proof.Machine

/-- A load (R250): `v := applyField(MemRead(M, 1), F); reg[r] <- v`. -/
def loadReg (r : Reg) (m : Addr) (f : Byte) (s : State) : Phase State := do
  let o ← fieldOperand m f s
  return (s.setReg r o.2).seq

/-- A negative load (R258): `v := applyField(MemRead(M, 1), F); reg[r] <- negate(v)`. -/
def loadNegReg (r : Reg) (m : Addr) (f : Byte) (s : State) : Phase State := do
  let o ← fieldOperand m f s
  return (s.setReg r (negate o.2)).seq

/-- LDA (R250). -/
def execLda (m : Addr) (f : Byte) (s : State) : Host.Outcome State Fault Refusal :=
  outcome (loadReg .A m f s)

/-- LD1 (R251). -/
def execLd1 (m : Addr) (f : Byte) (s : State) : Host.Outcome State Fault Refusal :=
  outcome (loadReg .I1 m f s)

/-- LD2 (R252). -/
def execLd2 (m : Addr) (f : Byte) (s : State) : Host.Outcome State Fault Refusal :=
  outcome (loadReg .I2 m f s)

/-- LD3 (R253). -/
def execLd3 (m : Addr) (f : Byte) (s : State) : Host.Outcome State Fault Refusal :=
  outcome (loadReg .I3 m f s)

/-- LD4 (R254). -/
def execLd4 (m : Addr) (f : Byte) (s : State) : Host.Outcome State Fault Refusal :=
  outcome (loadReg .I4 m f s)

/-- LD5 (R255). -/
def execLd5 (m : Addr) (f : Byte) (s : State) : Host.Outcome State Fault Refusal :=
  outcome (loadReg .I5 m f s)

/-- LD6 (R256). -/
def execLd6 (m : Addr) (f : Byte) (s : State) : Host.Outcome State Fault Refusal :=
  outcome (loadReg .I6 m f s)

/-- LDX (R257). -/
def execLdx (m : Addr) (f : Byte) (s : State) : Host.Outcome State Fault Refusal :=
  outcome (loadReg .X m f s)

/-- LDAN (R258). -/
def execLdan (m : Addr) (f : Byte) (s : State) : Host.Outcome State Fault Refusal :=
  outcome (loadNegReg .A m f s)

/-- LD1N (R259). -/
def execLd1n (m : Addr) (f : Byte) (s : State) : Host.Outcome State Fault Refusal :=
  outcome (loadNegReg .I1 m f s)

/-- LD2N (R260). -/
def execLd2n (m : Addr) (f : Byte) (s : State) : Host.Outcome State Fault Refusal :=
  outcome (loadNegReg .I2 m f s)

/-- LD3N (R261). -/
def execLd3n (m : Addr) (f : Byte) (s : State) : Host.Outcome State Fault Refusal :=
  outcome (loadNegReg .I3 m f s)

/-- LD4N (R262). -/
def execLd4n (m : Addr) (f : Byte) (s : State) : Host.Outcome State Fault Refusal :=
  outcome (loadNegReg .I4 m f s)

/-- LD5N (R263). -/
def execLd5n (m : Addr) (f : Byte) (s : State) : Host.Outcome State Fault Refusal :=
  outcome (loadNegReg .I5 m f s)

/-- LD6N (R264). -/
def execLd6n (m : Addr) (f : Byte) (s : State) : Host.Outcome State Fault Refusal :=
  outcome (loadNegReg .I6 m f s)

/-- LDXN (R265). -/
def execLdxn (m : Addr) (f : Byte) (s : State) : Host.Outcome State Fault Refusal :=
  outcome (loadNegReg .X m f s)

end Sys2Proof.Machine
end

