-- ==== Sys2Proof/Machine/Shift.lean ====
section
/-! DEFINITION. The shifts and MOVE (45_shift_move.md R340 to R347). -/

namespace Sys2Proof.Machine

/-- A single-word shift (R340, R341): `reg[A] <- sh(reg[A], s)`. -/
def shiftA (sh : Word → Nat → Word) (m : Addr) (s : State) : Phase State := do
  let n ← shiftBits m s
  return (s.setReg .A (sh s.a n)).seq

/-- A double-word or circular shift (R342 to R345): `(reg[A], reg[X]) <- sh(reg[A], reg[X], s)`. -/
def shiftAX (sh : Word → Word → Nat → Word × Word) (m : Addr) (s : State) : Phase State := do
  let n ← shiftBits m s
  let ax := sh s.a s.x n
  return ((s.setReg .A ax.1).setReg .X ax.2).seq

/-- The copying loop of MOVE (R346): word by word in increasing order, each read and write checked; a failing address
halts with the words before it copied. -/
def copyWords (src dst : Int) : Nat → State → Phase State
  | 0, s => .ok s
  | n + 1, s => do
    let w ← memRead src s
    let t ← memWrite dst w s
    copyWords (src + 1) (dst + 1) n t

/-- R346: copy F words from M to the address in I1, then `reg[I1] <- smAdd(reg[I1], W(+, F)).result`. -/
def moveBlock (m : Addr) (f : Byte) (s : State) : Phase State := do
  let ma ← effAddr m s
  let t ← copyWords ma.val s.i1.val f.toNat s
  return (t.setReg .I1 (smAdd s.i1 (Word.ofMag .plus f.toNat)).1).seq

/-- SLA (R340). -/
def execSla (m : Addr) (s : State) : Host.Outcome State Fault Refusal :=
  outcome (shiftA shl1 m s)

/-- SRA (R341). -/
def execSra (m : Addr) (s : State) : Host.Outcome State Fault Refusal :=
  outcome (shiftA shr1 m s)

/-- SLAX (R342). -/
def execSlax (m : Addr) (s : State) : Host.Outcome State Fault Refusal :=
  outcome (shiftAX shl2 m s)

/-- SRAX (R343). -/
def execSrax (m : Addr) (s : State) : Host.Outcome State Fault Refusal :=
  outcome (shiftAX shr2 m s)

/-- SLC (R344). -/
def execSlc (m : Addr) (s : State) : Host.Outcome State Fault Refusal :=
  outcome (shiftAX rotl2 m s)

/-- SRC (R345). -/
def execSrc (m : Addr) (s : State) : Host.Outcome State Fault Refusal :=
  outcome (shiftAX rotr2 m s)

/-- MOVE (R346). -/
def execMove (m : Addr) (f : Byte) (s : State) : Host.Outcome State Fault Refusal :=
  outcome (moveBlock m f s)

end Sys2Proof.Machine
end

