-- ==== Sys2Proof/Machine/Special.lean ====
section
/-! DEFINITION. Conversion, halt and no-operation (44_special.md R320 to R323). M is formed and ignored. -/

namespace Sys2Proof.Machine

/-- R320: `v := wordToDecimal(reg[A], reg[X]); reg[A] <- W(sign(reg[A]), v mod 2^30); if v ≥ 2^30: ovf <- true`. -/
def numToA (m : Addr) (s : State) : Phase State := do
  let _ ← effAddr m s
  let v := wordToDecimal s.a s.x
  return ((s.setReg .A (Word.ofMag s.a.sign (v % magLimit))).raiseOvf (decide (magLimit ≤ v))).seq

/-- R321: both registers receive five digit codes and keep their signs. -/
def charFromA (m : Addr) (s : State) : Phase State := do
  let _ ← effAddr m s
  let c := decimalToChars s.a.sign s.x.sign s.a.mag
  return ((s.setReg .A c.1).setReg .X c.2).seq

/-- R322: `return Seq`, marked as HLT. Phase STOP of the step halts the machine (`stopPhase` of Machine/Cycle.lean,
41_cycle.md R212). -/
def haltInstr (m : Addr) (s : State) : Phase State := do
  let _ ← effAddr m s
  return s.seq

/-- R323: `return Seq`. -/
def noOperation (m : Addr) (s : State) : Phase State := do
  let _ ← effAddr m s
  return s.seq

/-- NOP (R323); F is not looked at. -/
def execNop (m : Addr) (_f : Byte) (s : State) : Host.Outcome State Fault Refusal :=
  outcome (noOperation m s)

/-- NUM (R320). -/
def execNum (m : Addr) (s : State) : Host.Outcome State Fault Refusal :=
  outcome (numToA m s)

/-- CHAR (R321). -/
def execChar (m : Addr) (s : State) : Host.Outcome State Fault Refusal :=
  outcome (charFromA m s)

/-- HLT (R322). -/
def execHlt (m : Addr) (s : State) : Host.Outcome State Fault Refusal :=
  outcome (haltInstr m s)

end Sys2Proof.Machine
end

