-- ==== Sys2Proof/Machine/Store.lean ====
section
/-! DEFINITION. The stores (42_load_store.md R266 to R275). -/

namespace Sys2Proof.Machine

/-- A store of the word `v` (R266): `w := MemRead(M, 1); MemWrite(M, 1, storeField(w, v, F))`. -/
def storeWord (v : Word) (m : Addr) (f : Byte) (s : State) : Phase State := do
  let ma ← effAddr m s
  let p ← fieldOf f s
  let w ← memRead ma.val s
  let t ← memWrite ma.val (insertField w v p) s
  return t.seq

/-- STA (R266). -/
def execSta (m : Addr) (f : Byte) (s : State) : Host.Outcome State Fault Refusal :=
  outcome (storeWord (s.reg .A) m f s)

/-- ST1 (R267). -/
def execSt1 (m : Addr) (f : Byte) (s : State) : Host.Outcome State Fault Refusal :=
  outcome (storeWord (s.reg .I1) m f s)

/-- ST2 (R268). -/
def execSt2 (m : Addr) (f : Byte) (s : State) : Host.Outcome State Fault Refusal :=
  outcome (storeWord (s.reg .I2) m f s)

/-- ST3 (R269). -/
def execSt3 (m : Addr) (f : Byte) (s : State) : Host.Outcome State Fault Refusal :=
  outcome (storeWord (s.reg .I3) m f s)

/-- ST4 (R270). -/
def execSt4 (m : Addr) (f : Byte) (s : State) : Host.Outcome State Fault Refusal :=
  outcome (storeWord (s.reg .I4) m f s)

/-- ST5 (R271). -/
def execSt5 (m : Addr) (f : Byte) (s : State) : Host.Outcome State Fault Refusal :=
  outcome (storeWord (s.reg .I5) m f s)

/-- ST6 (R272). -/
def execSt6 (m : Addr) (f : Byte) (s : State) : Host.Outcome State Fault Refusal :=
  outcome (storeWord (s.reg .I6) m f s)

/-- STX (R273). -/
def execStx (m : Addr) (f : Byte) (s : State) : Host.Outcome State Fault Refusal :=
  outcome (storeWord (s.reg .X) m f s)

/-- STJ (R274). -/
def execStj (m : Addr) (f : Byte) (s : State) : Host.Outcome State Fault Refusal :=
  outcome (storeWord (s.reg .J) m f s)

/-- STZ (R275): the stored word is `+0`. -/
def execStz (m : Addr) (f : Byte) (s : State) : Host.Outcome State Fault Refusal :=
  outcome (storeWord Word.plusZero m f s)

end Sys2Proof.Machine
end

