-- ==== Sys2Proof/Machine/Dispatch.lean ====
section
/-! DEFINITION. `exec`: phases EXECUTE and ADVANCE of one decoded instruction (41_cycle.md R207, R208), one arm per
constructor. The phases around it are in Machine/Cycle.lean. -/

namespace Sys2Proof.Machine

def exec (i : Instr) (s : State) : Host.Outcome State Fault Refusal :=
  match i with
  | .nop m f => Sys2Proof.Machine.execNop m f s
  | .add m f => Sys2Proof.Machine.execAdd m f s
  | .sub m f => Sys2Proof.Machine.execSub m f s
  | .mul m f => Sys2Proof.Machine.execMul m f s
  | .div m f => Sys2Proof.Machine.execDiv m f s
  | .num m => Sys2Proof.Machine.execNum m s
  | .char m => Sys2Proof.Machine.execChar m s
  | .hlt m => Sys2Proof.Machine.execHlt m s
  | .sla m => Sys2Proof.Machine.execSla m s
  | .sra m => Sys2Proof.Machine.execSra m s
  | .slax m => Sys2Proof.Machine.execSlax m s
  | .srax m => Sys2Proof.Machine.execSrax m s
  | .slc m => Sys2Proof.Machine.execSlc m s
  | .src m => Sys2Proof.Machine.execSrc m s
  | .move m f => Sys2Proof.Machine.execMove m f s
  | .lda m f => Sys2Proof.Machine.execLda m f s
  | .ld1 m f => Sys2Proof.Machine.execLd1 m f s
  | .ld2 m f => Sys2Proof.Machine.execLd2 m f s
  | .ld3 m f => Sys2Proof.Machine.execLd3 m f s
  | .ld4 m f => Sys2Proof.Machine.execLd4 m f s
  | .ld5 m f => Sys2Proof.Machine.execLd5 m f s
  | .ld6 m f => Sys2Proof.Machine.execLd6 m f s
  | .ldx m f => Sys2Proof.Machine.execLdx m f s
  | .ldan m f => Sys2Proof.Machine.execLdan m f s
  | .ld1n m f => Sys2Proof.Machine.execLd1n m f s
  | .ld2n m f => Sys2Proof.Machine.execLd2n m f s
  | .ld3n m f => Sys2Proof.Machine.execLd3n m f s
  | .ld4n m f => Sys2Proof.Machine.execLd4n m f s
  | .ld5n m f => Sys2Proof.Machine.execLd5n m f s
  | .ld6n m f => Sys2Proof.Machine.execLd6n m f s
  | .ldxn m f => Sys2Proof.Machine.execLdxn m f s
  | .sta m f => Sys2Proof.Machine.execSta m f s
  | .st1 m f => Sys2Proof.Machine.execSt1 m f s
  | .st2 m f => Sys2Proof.Machine.execSt2 m f s
  | .st3 m f => Sys2Proof.Machine.execSt3 m f s
  | .st4 m f => Sys2Proof.Machine.execSt4 m f s
  | .st5 m f => Sys2Proof.Machine.execSt5 m f s
  | .st6 m f => Sys2Proof.Machine.execSt6 m f s
  | .stx m f => Sys2Proof.Machine.execStx m f s
  | .stj m f => Sys2Proof.Machine.execStj m f s
  | .stz m f => Sys2Proof.Machine.execStz m f s
  | .jbus m f => Sys2Proof.Machine.execJbus m f s
  | .ioc m f => Sys2Proof.Machine.execIoc m f s
  | .inp m f => Sys2Proof.Machine.execIn m f s
  | .out m f => Sys2Proof.Machine.execOut m f s
  | .jred m f => Sys2Proof.Machine.execJred m f s
  | .jmp m => Sys2Proof.Machine.execJmp m s
  | .jsj m => Sys2Proof.Machine.execJsj m s
  | .jov m => Sys2Proof.Machine.execJov m s
  | .jnov m => Sys2Proof.Machine.execJnov m s
  | .jl m => Sys2Proof.Machine.execJl m s
  | .je m => Sys2Proof.Machine.execJe m s
  | .jg m => Sys2Proof.Machine.execJg m s
  | .jge m => Sys2Proof.Machine.execJge m s
  | .jne m => Sys2Proof.Machine.execJne m s
  | .jle m => Sys2Proof.Machine.execJle m s
  | .jan m => Sys2Proof.Machine.execJan m s
  | .jaz m => Sys2Proof.Machine.execJaz m s
  | .jap m => Sys2Proof.Machine.execJap m s
  | .jann m => Sys2Proof.Machine.execJann m s
  | .janz m => Sys2Proof.Machine.execJanz m s
  | .janp m => Sys2Proof.Machine.execJanp m s
  | .j1n m => Sys2Proof.Machine.execJ1n m s
  | .j1z m => Sys2Proof.Machine.execJ1z m s
  | .j1p m => Sys2Proof.Machine.execJ1p m s
  | .j1nn m => Sys2Proof.Machine.execJ1nn m s
  | .j1nz m => Sys2Proof.Machine.execJ1nz m s
  | .j1np m => Sys2Proof.Machine.execJ1np m s
  | .j2n m => Sys2Proof.Machine.execJ2n m s
  | .j2z m => Sys2Proof.Machine.execJ2z m s
  | .j2p m => Sys2Proof.Machine.execJ2p m s
  | .j2nn m => Sys2Proof.Machine.execJ2nn m s
  | .j2nz m => Sys2Proof.Machine.execJ2nz m s
  | .j2np m => Sys2Proof.Machine.execJ2np m s
  | .j3n m => Sys2Proof.Machine.execJ3n m s
  | .j3z m => Sys2Proof.Machine.execJ3z m s
  | .j3p m => Sys2Proof.Machine.execJ3p m s
  | .j3nn m => Sys2Proof.Machine.execJ3nn m s
  | .j3nz m => Sys2Proof.Machine.execJ3nz m s
  | .j3np m => Sys2Proof.Machine.execJ3np m s
  | .j4n m => Sys2Proof.Machine.execJ4n m s
  | .j4z m => Sys2Proof.Machine.execJ4z m s
  | .j4p m => Sys2Proof.Machine.execJ4p m s
  | .j4nn m => Sys2Proof.Machine.execJ4nn m s
  | .j4nz m => Sys2Proof.Machine.execJ4nz m s
  | .j4np m => Sys2Proof.Machine.execJ4np m s
  | .j5n m => Sys2Proof.Machine.execJ5n m s
  | .j5z m => Sys2Proof.Machine.execJ5z m s
  | .j5p m => Sys2Proof.Machine.execJ5p m s
  | .j5nn m => Sys2Proof.Machine.execJ5nn m s
  | .j5nz m => Sys2Proof.Machine.execJ5nz m s
  | .j5np m => Sys2Proof.Machine.execJ5np m s
  | .j6n m => Sys2Proof.Machine.execJ6n m s
  | .j6z m => Sys2Proof.Machine.execJ6z m s
  | .j6p m => Sys2Proof.Machine.execJ6p m s
  | .j6nn m => Sys2Proof.Machine.execJ6nn m s
  | .j6nz m => Sys2Proof.Machine.execJ6nz m s
  | .j6np m => Sys2Proof.Machine.execJ6np m s
  | .jxn m => Sys2Proof.Machine.execJxn m s
  | .jxz m => Sys2Proof.Machine.execJxz m s
  | .jxp m => Sys2Proof.Machine.execJxp m s
  | .jxnn m => Sys2Proof.Machine.execJxnn m s
  | .jxnz m => Sys2Proof.Machine.execJxnz m s
  | .jxnp m => Sys2Proof.Machine.execJxnp m s
  | .inca m => Sys2Proof.Machine.execInca m s
  | .deca m => Sys2Proof.Machine.execDeca m s
  | .enta m => Sys2Proof.Machine.execEnta m s
  | .enna m => Sys2Proof.Machine.execEnna m s
  | .inc1 m => Sys2Proof.Machine.execInc1 m s
  | .dec1 m => Sys2Proof.Machine.execDec1 m s
  | .ent1 m => Sys2Proof.Machine.execEnt1 m s
  | .enn1 m => Sys2Proof.Machine.execEnn1 m s
  | .inc2 m => Sys2Proof.Machine.execInc2 m s
  | .dec2 m => Sys2Proof.Machine.execDec2 m s
  | .ent2 m => Sys2Proof.Machine.execEnt2 m s
  | .enn2 m => Sys2Proof.Machine.execEnn2 m s
  | .inc3 m => Sys2Proof.Machine.execInc3 m s
  | .dec3 m => Sys2Proof.Machine.execDec3 m s
  | .ent3 m => Sys2Proof.Machine.execEnt3 m s
  | .enn3 m => Sys2Proof.Machine.execEnn3 m s
  | .inc4 m => Sys2Proof.Machine.execInc4 m s
  | .dec4 m => Sys2Proof.Machine.execDec4 m s
  | .ent4 m => Sys2Proof.Machine.execEnt4 m s
  | .enn4 m => Sys2Proof.Machine.execEnn4 m s
  | .inc5 m => Sys2Proof.Machine.execInc5 m s
  | .dec5 m => Sys2Proof.Machine.execDec5 m s
  | .ent5 m => Sys2Proof.Machine.execEnt5 m s
  | .enn5 m => Sys2Proof.Machine.execEnn5 m s
  | .inc6 m => Sys2Proof.Machine.execInc6 m s
  | .dec6 m => Sys2Proof.Machine.execDec6 m s
  | .ent6 m => Sys2Proof.Machine.execEnt6 m s
  | .enn6 m => Sys2Proof.Machine.execEnn6 m s
  | .incx m => Sys2Proof.Machine.execIncx m s
  | .decx m => Sys2Proof.Machine.execDecx m s
  | .entx m => Sys2Proof.Machine.execEntx m s
  | .ennx m => Sys2Proof.Machine.execEnnx m s
  | .cmpa m f => Sys2Proof.Machine.execCmpa m f s
  | .cmp1 m f => Sys2Proof.Machine.execCmp1 m f s
  | .cmp2 m f => Sys2Proof.Machine.execCmp2 m f s
  | .cmp3 m f => Sys2Proof.Machine.execCmp3 m f s
  | .cmp4 m f => Sys2Proof.Machine.execCmp4 m f s
  | .cmp5 m f => Sys2Proof.Machine.execCmp5 m f s
  | .cmp6 m f => Sys2Proof.Machine.execCmp6 m f s
  | .cmpx m f => Sys2Proof.Machine.execCmpx m f s

end Sys2Proof.Machine
end

