-- ==== Sys2Proof/Machine/Timing.lean ====
section
/-! DEFINITION. The time cost of a step (41_cycle.md R214, R215; 49_io.md R508): MOVE's form is the source's, the form
1 + R of the I/O cost is the spec's decision, and every other figure is read from the configuration table `TIME` (log
entries 8 and 21). -/

namespace Sys2Proof.Machine

/-- The C byte of an instruction's word (30_encoding.md R101). -/
def opByte (i : Instr) : Nat := (encode i).b5.toNat

/-- The F byte of an instruction's word (30_encoding.md R101). -/
def fByte (i : Instr) : Nat := (encode i).b4.toNat

/-- The opcodes whose F selects a variant (30_encoding.md R105). -/
def variantRole (c : Nat) : Bool := decide (c = 5) || decide (c = 6) || (decide (39 ≤ c) && decide (c ≤ 55))

/-- The variant of an instruction: its F byte in the variant role, and otherwise the one variant 0. -/
def variantOf (i : Instr) : Nat := if variantRole (opByte i) then fByte i else 0

/-- `1 + R`, with R the unit's remaining time at the start of phase EXECUTE (49_io.md R508). -/
def ioCost (s : State) (u : Nat) : Nat := 1 + (s.dev u).timer

/-- `TIME(ins)` (41_cycle.md R215) in the state at the start of phase EXECUTE: MOVE, IOC, IN and OUT by their forms, every
other instruction by its entry. -/
def cost (s : State) (i : Instr) : Nat :=
  if opByte i = 7 then 1 + 2 * fByte i
  else if 35 ≤ opByte i ∧ opByte i ≤ 37 then ioCost s (fByte i)
  else (s.params.time.entry (opByte i) (variantOf i)).units

end Sys2Proof.Machine
end

