-- ==== Sys2Proof/Machine/Cycle.lean ====
section
/-! DEFINITION. The phases of a step around EXECUTE (41_cycle.md R200 to R213): FETCH, DECODE and DISPATCH before it,
IO_UPDATE, CHECK, RECORD and STOP after it; and the host's requests `reset` and `load` (70_reset_and_hazards.md R600,
R602). -/

namespace Sys2Proof.Machine

/-- Phases FETCH, DECODE and DISPATCH (R201, R202, R206): the instruction at pc, or the halt that ends the step. The
index check R203 is the first check of the instruction's own meaning (log entry 11). -/
def fetch (s : State) : Phase Instr := do
  let w ← memRead s.pc s
  match decode w with
  | .ok i => .ok i
  | .error _ => invalidInstr s

/-- `armedThisStep` (49_io.md R493): the unit an instruction arms when it does not halt. -/
def armedUnit : Instr → Option Nat
  | .inp _ f => some f.toNat
  | .out _ f => some f.toNat
  | _ => none

/-- The instruction is HLT, which phase STOP asks (R212). -/
def isHlt : Instr → Bool
  | .hlt _ => true
  | _ => false

/-- The registers phase CHECK looks at, in its order (R210). -/
def checkedRegs : List Reg := [.I1, .I2, .I3, .I4, .I5, .I6, .J]

/-- Phase CHECK (R210): the first register whose magnitude is 4096 or more halts the step, and keeps its value. -/
def checkRegs (pc0 : Int) (s : State) : Phase State :=
  match checkedRegs.find? fun r => decide (idxLimit ≤ (s.reg r).mag) with
  | some r => raiseHalt .registerOverflow { pc := pc0, reg := some r } s
  | none => .ok s

/-- Phase RECORD (R211). -/
def record (pc0 : Int) (c : Nat) (s : State) : State :=
  { s with
    execCount := tableWrite 0 s.execCount pc0.toNat (tableRead 0 s.execCount pc0.toNat + 1)
    execTime := tableWrite 0 s.execTime pc0.toNat (tableRead 0 s.execTime pc0.toNat + c) }

/-- Phase STOP (R212): HLT halts the machine, pc already advanced. -/
def stopPhase (pc0 : Int) (i : Instr) (s : State) : State :=
  if isHlt i then s.setRun (.halted .halt { pc := pc0 }) else s

/-- Phases IO_UPDATE, CHECK, RECORD and STOP (R209 to R213) of the step that executes `i` from `s`, on the state `t`
that phases EXECUTE and ADVANCE left. A halt in EXECUTE ends the step before them (R205). -/
def finish (i : Instr) (s t : State) : State :=
  match t.run with
  | .halted _ _ => t
  | .running => settle do
    let t₁ ← ioUpdate s.pc (cost s i) (armedUnit i) t
    let t₂ ← checkRegs s.pc t₁
    return stopPhase s.pc i (record s.pc (cost s i) t₂)

/-! ### The host's requests between steps (41_cycle.md R217) -/

/-- `reset` (70_reset_and_hazards.md R600): every piece of state as after reset; the host's side and the configuration
are not touched. -/
def hostReset (s : State) : State := { State.resetWith s.params with hostIn := s.hostIn, hostLog := s.hostLog }

/-- Put the cells of an image into memory. A cell outside 0..3999 is no cell of an image (R602, log entry 14) and is
left out. -/
def putImage (s : State) : List (Nat × Word) → State
  | [] => s
  | (a, w) :: rest => putImage (if a < memWords then s.putWord a w else s) rest

/-- `load(image, entry)` (70_reset_and_hazards.md R602). -/
def hostLoad (s : State) (image : List (Nat × Word)) (entry : Int) : State :=
  (putImage (hostReset s) image).setPc entry

/-- A load that the assembler refuses writes no image (70_reset_and_hazards.md R603). -/
def hostFailedLoad (s : State) : State := hostReset s

end Sys2Proof.Machine
end

