-- ==== Sys2Proof/Machine/Step.lean ====
section
/-! DEFINITION. One step of the machine (41_cycle.md R213). -/

namespace Sys2Proof.Machine

/-- One step (41_cycle.md R200, R213). A HALTED state has no step (log entry 9). -/
def step (s : State) : Host.Outcome State Fault Refusal :=
  match s.run with
  | .halted _ _ => .fault .haltedHasNoStep
  | .running =>
    match fetch s with
    | .error h => .next h
    | .ok i =>
      match exec i s with
      | .next t => .next (finish i s t)
      | .fault r => .fault r
      | .refused r => .refused r

/-- The state with the word whose packing is the low `nbits` bits of `w` stored at pc, where the next step fetches it
(log entry 7). A number of 2^31 or more is no word and is not stored; outside 0..3999 there is nothing to fetch. -/
def State.withFetchWord (s : State) (nbits w : Nat) : State :=
  if addrOk s.pc ∧ w % 2 ^ nbits < 2147483648 then s.putWord s.pc.toNat (unpackWord (w % 2 ^ nbits)) else s

end Sys2Proof.Machine
end

