-- ==== Sys2Proof/WellFormed.lean ====
section
/-! DEFINITION. Which instructions are well formed: those that 30_encoding.md R111 does not list among the words that
never execute. An ill-formed instruction still has its meaning: it halts with the reason R111 gives. -/

namespace Sys2Proof

/-- The role of the F byte (30_encoding.md R105), with the byte where it is an operand. -/
inductive FRole where
  | ignored
  | variant
  | count
  | field (f : Byte)
  | testUnit (f : Byte)
  | controlUnit (f : Byte)
  | inputUnit (f : Byte)
  | outputUnit (f : Byte)
  deriving DecidableEq, Repr

/-- The role of an instruction's F byte (30_encoding.md R108). -/
def Instr.fRole : Instr → FRole
  | .nop _ _ => .ignored
  | .add _ f => .field f
  | .sub _ f => .field f
  | .mul _ f => .field f
  | .div _ f => .field f
  | .num _ => .variant
  | .char _ => .variant
  | .hlt _ => .variant
  | .sla _ => .variant
  | .sra _ => .variant
  | .slax _ => .variant
  | .srax _ => .variant
  | .slc _ => .variant
  | .src _ => .variant
  | .move _ _ => .count
  | .lda _ f => .field f
  | .ld1 _ f => .field f
  | .ld2 _ f => .field f
  | .ld3 _ f => .field f
  | .ld4 _ f => .field f
  | .ld5 _ f => .field f
  | .ld6 _ f => .field f
  | .ldx _ f => .field f
  | .ldan _ f => .field f
  | .ld1n _ f => .field f
  | .ld2n _ f => .field f
  | .ld3n _ f => .field f
  | .ld4n _ f => .field f
  | .ld5n _ f => .field f
  | .ld6n _ f => .field f
  | .ldxn _ f => .field f
  | .sta _ f => .field f
  | .st1 _ f => .field f
  | .st2 _ f => .field f
  | .st3 _ f => .field f
  | .st4 _ f => .field f
  | .st5 _ f => .field f
  | .st6 _ f => .field f
  | .stx _ f => .field f
  | .stj _ f => .field f
  | .stz _ f => .field f
  | .jbus _ f => .testUnit f
  | .ioc _ f => .controlUnit f
  | .inp _ f => .inputUnit f
  | .out _ f => .outputUnit f
  | .jred _ f => .testUnit f
  | .jmp _ => .variant
  | .jsj _ => .variant
  | .jov _ => .variant
  | .jnov _ => .variant
  | .jl _ => .variant
  | .je _ => .variant
  | .jg _ => .variant
  | .jge _ => .variant
  | .jne _ => .variant
  | .jle _ => .variant
  | .jan _ => .variant
  | .jaz _ => .variant
  | .jap _ => .variant
  | .jann _ => .variant
  | .janz _ => .variant
  | .janp _ => .variant
  | .j1n _ => .variant
  | .j1z _ => .variant
  | .j1p _ => .variant
  | .j1nn _ => .variant
  | .j1nz _ => .variant
  | .j1np _ => .variant
  | .j2n _ => .variant
  | .j2z _ => .variant
  | .j2p _ => .variant
  | .j2nn _ => .variant
  | .j2nz _ => .variant
  | .j2np _ => .variant
  | .j3n _ => .variant
  | .j3z _ => .variant
  | .j3p _ => .variant
  | .j3nn _ => .variant
  | .j3nz _ => .variant
  | .j3np _ => .variant
  | .j4n _ => .variant
  | .j4z _ => .variant
  | .j4p _ => .variant
  | .j4nn _ => .variant
  | .j4nz _ => .variant
  | .j4np _ => .variant
  | .j5n _ => .variant
  | .j5z _ => .variant
  | .j5p _ => .variant
  | .j5nn _ => .variant
  | .j5nz _ => .variant
  | .j5np _ => .variant
  | .j6n _ => .variant
  | .j6z _ => .variant
  | .j6p _ => .variant
  | .j6nn _ => .variant
  | .j6nz _ => .variant
  | .j6np _ => .variant
  | .jxn _ => .variant
  | .jxz _ => .variant
  | .jxp _ => .variant
  | .jxnn _ => .variant
  | .jxnz _ => .variant
  | .jxnp _ => .variant
  | .inca _ => .variant
  | .deca _ => .variant
  | .enta _ => .variant
  | .enna _ => .variant
  | .inc1 _ => .variant
  | .dec1 _ => .variant
  | .ent1 _ => .variant
  | .enn1 _ => .variant
  | .inc2 _ => .variant
  | .dec2 _ => .variant
  | .ent2 _ => .variant
  | .enn2 _ => .variant
  | .inc3 _ => .variant
  | .dec3 _ => .variant
  | .ent3 _ => .variant
  | .enn3 _ => .variant
  | .inc4 _ => .variant
  | .dec4 _ => .variant
  | .ent4 _ => .variant
  | .enn4 _ => .variant
  | .inc5 _ => .variant
  | .dec5 _ => .variant
  | .ent5 _ => .variant
  | .enn5 _ => .variant
  | .inc6 _ => .variant
  | .dec6 _ => .variant
  | .ent6 _ => .variant
  | .enn6 _ => .variant
  | .incx _ => .variant
  | .decx _ => .variant
  | .entx _ => .variant
  | .ennx _ => .variant
  | .cmpa _ f => .field f
  | .cmp1 _ f => .field f
  | .cmp2 _ f => .field f
  | .cmp3 _ f => .field f
  | .cmp4 _ f => .field f
  | .cmp5 _ f => .field f
  | .cmp6 _ f => .field f
  | .cmpx _ f => .field f

/-- The address part of an instruction. -/
def Instr.addr : Instr → Addr
  | .nop m _ => m
  | .add m _ => m
  | .sub m _ => m
  | .mul m _ => m
  | .div m _ => m
  | .num m => m
  | .char m => m
  | .hlt m => m
  | .sla m => m
  | .sra m => m
  | .slax m => m
  | .srax m => m
  | .slc m => m
  | .src m => m
  | .move m _ => m
  | .lda m _ => m
  | .ld1 m _ => m
  | .ld2 m _ => m
  | .ld3 m _ => m
  | .ld4 m _ => m
  | .ld5 m _ => m
  | .ld6 m _ => m
  | .ldx m _ => m
  | .ldan m _ => m
  | .ld1n m _ => m
  | .ld2n m _ => m
  | .ld3n m _ => m
  | .ld4n m _ => m
  | .ld5n m _ => m
  | .ld6n m _ => m
  | .ldxn m _ => m
  | .sta m _ => m
  | .st1 m _ => m
  | .st2 m _ => m
  | .st3 m _ => m
  | .st4 m _ => m
  | .st5 m _ => m
  | .st6 m _ => m
  | .stx m _ => m
  | .stj m _ => m
  | .stz m _ => m
  | .jbus m _ => m
  | .ioc m _ => m
  | .inp m _ => m
  | .out m _ => m
  | .jred m _ => m
  | .jmp m => m
  | .jsj m => m
  | .jov m => m
  | .jnov m => m
  | .jl m => m
  | .je m => m
  | .jg m => m
  | .jge m => m
  | .jne m => m
  | .jle m => m
  | .jan m => m
  | .jaz m => m
  | .jap m => m
  | .jann m => m
  | .janz m => m
  | .janp m => m
  | .j1n m => m
  | .j1z m => m
  | .j1p m => m
  | .j1nn m => m
  | .j1nz m => m
  | .j1np m => m
  | .j2n m => m
  | .j2z m => m
  | .j2p m => m
  | .j2nn m => m
  | .j2nz m => m
  | .j2np m => m
  | .j3n m => m
  | .j3z m => m
  | .j3p m => m
  | .j3nn m => m
  | .j3nz m => m
  | .j3np m => m
  | .j4n m => m
  | .j4z m => m
  | .j4p m => m
  | .j4nn m => m
  | .j4nz m => m
  | .j4np m => m
  | .j5n m => m
  | .j5z m => m
  | .j5p m => m
  | .j5nn m => m
  | .j5nz m => m
  | .j5np m => m
  | .j6n m => m
  | .j6z m => m
  | .j6p m => m
  | .j6nn m => m
  | .j6nz m => m
  | .j6np m => m
  | .jxn m => m
  | .jxz m => m
  | .jxp m => m
  | .jxnn m => m
  | .jxnz m => m
  | .jxnp m => m
  | .inca m => m
  | .deca m => m
  | .enta m => m
  | .enna m => m
  | .inc1 m => m
  | .dec1 m => m
  | .ent1 m => m
  | .enn1 m => m
  | .inc2 m => m
  | .dec2 m => m
  | .ent2 m => m
  | .enn2 m => m
  | .inc3 m => m
  | .dec3 m => m
  | .ent3 m => m
  | .enn3 m => m
  | .inc4 m => m
  | .dec4 m => m
  | .ent4 m => m
  | .enn4 m => m
  | .inc5 m => m
  | .dec5 m => m
  | .ent5 m => m
  | .enn5 m => m
  | .inc6 m => m
  | .dec6 m => m
  | .ent6 m => m
  | .enn6 m => m
  | .incx m => m
  | .decx m => m
  | .entx m => m
  | .ennx m => m
  | .cmpa m _ => m
  | .cmp1 m _ => m
  | .cmp2 m _ => m
  | .cmp3 m _ => m
  | .cmp4 m _ => m
  | .cmp5 m _ => m
  | .cmp6 m _ => m
  | .cmpx m _ => m

/-- The index byte selects no index or I1..I6 (30_encoding.md R103). -/
def Addr.indexOk (m : Addr) : Bool := m.idx.toNat ≤ 6

/-- The F byte is one the instruction can execute with (30_encoding.md R106, 49_io.md R507). -/
def FRole.ok : FRole → Bool
  | .ignored => true
  | .variant => true
  | .count => true
  | .field f => (Machine.fieldSpec f).isSome
  | .testUnit f => Machine.unitExists f
  | .controlUnit f => Machine.unitControls f
  | .inputUnit f => Machine.unitTransfers .input f
  | .outputUnit f => Machine.unitTransfers .output f

/-- A well-formed instruction: a legal index byte, and an F byte that R111 of 30_encoding.md does not exclude. -/
def Instr.wellFormed (i : Instr) : Bool := i.addr.indexOk && i.fRole.ok

end Sys2Proof
end

