-- ==== Sys2Proof/Safety.lean ====
section
/-! DEFINITION. The terms statements use: the invariant of the states between steps, what a step leaves unchanged, and the
instruction families as lists of constructors. -/

namespace Sys2Proof.Machine

/-! ### The invariant -/

/-- The index registers, I1..I6 (10_state.md R32). -/
def indexRegs : List Reg := [.I1, .I2, .I3, .I4, .I5, .I6]

/-- Every index register's magnitude fits in two bytes (10_state.md R32). -/
def State.indexBounded (s : State) : Prop := ∀ r ∈ indexRegs, (s.reg r).mag < idxLimit

/-- A device record that rules R490 to R507 of 49_io.md allow for unit `u`: the timer within the total, the total at
least 1, the target address in the range of M (R493, 30_encoding.md R104), and, while the timer runs, a direction the
unit takes. -/
structure DevRec.Ok (u : Nat) (d : DevRec) : Prop where
  timer_le : d.timer ≤ d.total
  total_pos : 1 ≤ d.total
  addr_lower : -8190 ≤ d.addr
  addr_upper : d.addr ≤ 8190
  legal : d.timer ≠ 0 → (unitKind u).allows d.op = true

/-- What holds of every state between two steps: the tables are canonical, the device table has its 21 records and
each is one the rules allow, J is a non-negative address of at most 4000, pc lies in the range of M, and while the
machine runs the index registers keep their two-byte invariant. -/
structure State.Inv (s : State) : Prop where
  mem_wf : Memory.wf s.mem = true
  execCount_wf : Counters.wf s.execCount = true
  execTime_wf : Counters.wf s.execTime = true
  dev_count : s.devs.length = numDevices
  dev_ok : ∀ u, u < numDevices → (s.dev u).Ok u
  j_plus : s.j.sign = .plus
  j_le : s.j.mag ≤ memWords
  pc_lower : -8190 ≤ s.pc
  pc_upper : s.pc ≤ 8190
  index_bounded : s.run = .running → s.indexBounded

/-! ### What is left unchanged -/

/-- Every register outside the list reads as before. -/
def regsKept (rs : List Reg) (s t : State) : Prop := ∀ r, r ∉ rs → t.reg r = s.reg r

/-- Every word of memory reads as before. -/
def memKept (s t : State) : Prop := ∀ n, t.wordAt n = s.wordAt n

/-- Every word of memory but the one at `a` reads as before. -/
def memKeptBut (a : Nat) (s t : State) : Prop := ∀ n, n ≠ a → t.wordAt n = s.wordAt n

/-- The overflow flag and the comparison indicator are as before. -/
def flagsKept (s t : State) : Prop := t.ovf = s.ovf ∧ t.ci = s.ci

/-- The devices and the host's side of their ports are as before. -/
def devicesKept (s t : State) : Prop := t.devs = s.devs ∧ t.hostIn = s.hostIn ∧ t.hostLog = s.hostLog

/-- The run state, the profiling counters and the configuration are as before. -/
def controlKept (s t : State) : Prop :=
  t.run = s.run ∧ t.execCount = s.execCount ∧ t.execTime = s.execTime ∧ t.params = s.params

/-- Devices, run state and profiling counters are as before: what no instruction but the I/O ones changes in phases
EXECUTE and ADVANCE. -/
def surroundingsKept (s t : State) : Prop := devicesKept s t ∧ controlKept s t

/-- The registers, pc, the flags, the profiling counters and the configuration are as before: what a device transfer never changes
(49_io.md R495). -/
def coreKept (s t : State) : Prop :=
  regsKept [] s t ∧ t.pc = s.pc ∧ flagsKept s t ∧ t.execCount = s.execCount ∧ t.execTime = s.execTime ∧
    t.params = s.params

/-- What a jump that is taken does (47_jump.md R438): pc is the target, J is `W(+, pc0 + 1)`, nothing else changes. The
flags are said apart. -/
def takenJump (s : State) (target : Int) (t : State) : Prop :=
  t.pc = target ∧ t.j.sign = .plus ∧ (t.j.mag : Int) = s.pc + 1 ∧ regsKept [.J] s t ∧ memKept s t ∧
    surroundingsKept s t

/-- What a jump that is not taken does: pc advances, J and everything else stay. -/
def notTakenJump (s t : State) : Prop :=
  t.pc = s.pc + 1 ∧ regsKept [] s t ∧ memKept s t ∧ surroundingsKept s t

/-- The state `s` halted at its own instruction, with nothing else changed (60_exceptions.md R552). -/
def State.haltedFor (s : State) (reason : HaltReason) : State := s.setRun (.halted reason { pc := s.pc })

/-- A sum `n` put into a register that held `d` (40_alu.md R152, R153): the value when its magnitude fits, the magnitude
less 2^30 under the old sign and the overflow flag set when it does not, and the old sign for a zero. -/
def sumInto (d : Word) (n : Int) (ovf : Bool) (r : Word) (ovf' : Bool) : Prop :=
  (n.natAbs < magLimit → r.val = n ∧ ovf' = ovf) ∧
  (magLimit ≤ n.natAbs → r.sign = d.sign ∧ r.mag + magLimit = n.natAbs ∧ ovf' = true) ∧
  (n = 0 → r.sign = d.sign)

/-- The first `k` words from `src` on were copied to `dst` on, one at a time in increasing order (45_shift_move.md R346):
a source word that an earlier copy wrote is read as that copy left it. No other word changed. -/
def copiedBlock (s t : State) (src dst k : Nat) : Prop :=
  (∀ j, j < k → t.wordAt (dst + j) =
    if dst ≤ src + j ∧ src + j < dst + j then t.wordAt (src + j) else s.wordAt (src + j)) ∧
  ∀ n, n < dst ∨ dst + k ≤ n → t.wordAt n = s.wordAt n

/-- A state with other profiling counters. -/
def State.withCounters (s : State) (ec et : Counters) : State := { s with execCount := ec, execTime := et }

/-! ### Devices -/

/-- The implemented units: tapes 0..7, card reader 16, line printer 18 (49_io.md R490). -/
def implementedUnit (u : Nat) : Prop := u ≤ 7 ∨ u = 16 ∨ u = 18

/-- The units 8..15, 17, 19 and 20 (49_io.md R490). -/
def reservedUnit (u : Nat) : Prop := (8 ≤ u ∧ u ≤ 15) ∨ u = 17 ∨ u = 19 ∨ u = 20

/-- The units that IN and OUT accept (49_io.md R490). -/
def unitTakes (op : IoOp) (u : Nat) : Prop :=
  match op with
  | .input => u ≤ 7 ∨ u = 16
  | .output => u ≤ 7 ∨ u = 18

/-- The block size of an implemented unit (49_io.md R490, the parameter `TAPE_BLOCK_WORDS` for a tape). -/
def blockLength (s : State) (u : Nat) : Nat := if u = 16 then 16 else if u = 18 then 24 else s.params.tapeBlockWords

/-- The request the pending operation of an implemented unit makes (49_io.md R498 to R501). -/
def transferRequest (s : State) (u : Nat) : HostRequest :=
  let a := (s.dev u).addr.toNat
  if u = 16 then .readCard
  else if u = 18 then
    .printLine ((List.range 24).flatMap fun k =>
      [(s.wordAt (a + k)).b1, (s.wordAt (a + k)).b2, (s.wordAt (a + k)).b3, (s.wordAt (a + k)).b4,
        (s.wordAt (a + k)).b5])
  else
    match (s.dev u).op with
    | .input => .tapeRead u
    | .output => .tapeWrite u ((List.range s.params.tapeBlockWords).map fun k => s.wordAt (a + k))

/-- A failed transfer or control request of unit `u` (49_io.md R497): the text is in the unit's record and in the halt
record, and no register, flag or word of memory has changed. -/
def failsWith (pc0 : Int) (u : Nat) (text : String) (s : State) (p : Phase State) : Prop :=
  ∃ h, p = .error h ∧ h.dev u = { s.dev u with lastError := some text } ∧ (∀ v, v ≠ u → h.dev v = s.dev v) ∧
    h.run = .halted .deviceError { pc := pc0, unit := some u, text := some text } ∧ memKept s h ∧ coreKept s h

/-- The unit's timer crosses the threshold in an update by `c` (49_io.md R492, R494). -/
def crosses (s : State) (u c : Nat) : Prop :=
  (s.dev u).total / 2 < (s.dev u).timer ∧ (s.dev u).timer - c ≤ (s.dev u).total / 2

/-- `s` with the timer of unit `u` lowered by `c`, to at least 0 (49_io.md R494). -/
def State.lowerTimer (s : State) (u c : Nat) : State := s.setDev u { s.dev u with timer := (s.dev u).timer - c }

/-- `s` with the timers of the units below `n` lowered by `c`, but for the armed one (49_io.md R494). -/
def State.lowerTimers (s : State) (c : Nat) (armed : Option Nat) : Nat → State
  | 0 => s
  | n + 1 => if armed = some n then s.lowerTimers c armed n else (s.lowerTimers c armed n).lowerTimer n c

/-- Unit `u`'s turn in a timer update that began in `s` leads from `a` to `b` (49_io.md R494): the armed unit is skipped,
any other one's timer falls, and its pending operation is transferred exactly if the timer crosses its threshold. -/
def turnLeads (pc0 : Int) (c : Nat) (armed : Option Nat) (s : State) (u : Nat) (a b : State) : Prop :=
  (armed = some u → b = a) ∧
  (armed ≠ some u → ¬ crosses s u c → b = a.lowerTimer u c) ∧
  (armed ≠ some u → crosses s u c → transfer pc0 u (a.lowerTimer u c) = .ok b)

/-- The instruction at pc is an IN or an OUT that names unit `u`. -/
def armsUnit (s : State) (u : Nat) : Prop :=
  ∃ m f, f.toNat = u ∧
    (decode (s.wordAt s.pc.toNat) = .ok (.inp m f) ∨ decode (s.wordAt s.pc.toNat) = .ok (.out m f))

/-! ### The instruction families -/

/-- LDA, LD1..LD6, LDX, each with its destination (42_load_store.md R250 to R257). -/
def loadForms : List (Reg × (Addr → Byte → Instr)) :=
  [(.A, .lda), (.I1, .ld1), (.I2, .ld2), (.I3, .ld3), (.I4, .ld4), (.I5, .ld5), (.I6, .ld6), (.X, .ldx)]

/-- LDAN, LD1N..LD6N, LDXN (42_load_store.md R258 to R265). -/
def loadNegForms : List (Reg × (Addr → Byte → Instr)) :=
  [(.A, .ldan), (.I1, .ld1n), (.I2, .ld2n), (.I3, .ld3n), (.I4, .ld4n), (.I5, .ld5n), (.I6, .ld6n), (.X, .ldxn)]

/-- STA, ST1..ST6, STX, STJ, each with its source (42_load_store.md R266 to R274). -/
def storeForms : List (Reg × (Addr → Byte → Instr)) :=
  [(.A, .sta), (.I1, .st1), (.I2, .st2), (.I3, .st3), (.I4, .st4), (.I5, .st5), (.I6, .st6), (.X, .stx), (.J, .stj)]

/-- CMPA, CMP1..CMP6, CMPX (46_compare.md R360 to R367). -/
def compareForms : List (Reg × (Addr → Byte → Instr)) :=
  [(.A, .cmpa), (.I1, .cmp1), (.I2, .cmp2), (.I3, .cmp3), (.I4, .cmp4), (.I5, .cmp5), (.I6, .cmp6), (.X, .cmpx)]

/-- Every instruction with a memory operand and a field (30_encoding.md R105, role `field`). -/
def fieldForms : List (Addr → Byte → Instr) :=
  (loadForms ++ loadNegForms ++ storeForms ++ compareForms).map Prod.snd ++ [.stz, .add, .sub, .mul, .div]

/-- JL, JE, JG, JGE, JNE, JLE (47_jump.md R384 to R389), each with the values of ci on which it jumps. -/
def ciJumpForms : List (List Cmp × (Addr → Instr)) :=
  [([.less], .jl), ([.equal], .je), ([.greater], .jg), ([.greater, .equal], .jge), ([.less, .greater], .jne),
   ([.less, .equal], .jle)]

/-- JrN: jump if negative. -/
def jumpNegForms : List (Reg × (Addr → Instr)) :=
  [(.A, .jan), (.I1, .j1n), (.I2, .j2n), (.I3, .j3n), (.I4, .j4n), (.I5, .j5n), (.I6, .j6n), (.X, .jxn)]

/-- JrZ: jump if zero. -/
def jumpZeroForms : List (Reg × (Addr → Instr)) :=
  [(.A, .jaz), (.I1, .j1z), (.I2, .j2z), (.I3, .j3z), (.I4, .j4z), (.I5, .j5z), (.I6, .j6z), (.X, .jxz)]

/-- JrP: jump if positive. -/
def jumpPosForms : List (Reg × (Addr → Instr)) :=
  [(.A, .jap), (.I1, .j1p), (.I2, .j2p), (.I3, .j3p), (.I4, .j4p), (.I5, .j5p), (.I6, .j6p), (.X, .jxp)]

/-- JrNN: jump if non-negative. -/
def jumpNonNegForms : List (Reg × (Addr → Instr)) :=
  [(.A, .jann), (.I1, .j1nn), (.I2, .j2nn), (.I3, .j3nn), (.I4, .j4nn), (.I5, .j5nn), (.I6, .j6nn), (.X, .jxnn)]

/-- JrNZ: jump if non-zero. -/
def jumpNonZeroForms : List (Reg × (Addr → Instr)) :=
  [(.A, .janz), (.I1, .j1nz), (.I2, .j2nz), (.I3, .j3nz), (.I4, .j4nz), (.I5, .j5nz), (.I6, .j6nz), (.X, .jxnz)]

/-- JrNP: jump if non-positive. -/
def jumpNonPosForms : List (Reg × (Addr → Instr)) :=
  [(.A, .janp), (.I1, .j1np), (.I2, .j2np), (.I3, .j3np), (.I4, .j4np), (.I5, .j5np), (.I6, .j6np), (.X, .jxnp)]

/-- INCA, INC1..INC6, INCX. -/
def incForms : List (Reg × (Addr → Instr)) :=
  [(.A, .inca), (.I1, .inc1), (.I2, .inc2), (.I3, .inc3), (.I4, .inc4), (.I5, .inc5), (.I6, .inc6), (.X, .incx)]

/-- DECA, DEC1..DEC6, DECX. -/
def decForms : List (Reg × (Addr → Instr)) :=
  [(.A, .deca), (.I1, .dec1), (.I2, .dec2), (.I3, .dec3), (.I4, .dec4), (.I5, .dec5), (.I6, .dec6), (.X, .decx)]

/-- ENTA, ENT1..ENT6, ENTX. -/
def entForms : List (Reg × (Addr → Instr)) :=
  [(.A, .enta), (.I1, .ent1), (.I2, .ent2), (.I3, .ent3), (.I4, .ent4), (.I5, .ent5), (.I6, .ent6), (.X, .entx)]

/-- ENNA, ENN1..ENN6, ENNX. -/
def ennForms : List (Reg × (Addr → Instr)) :=
  [(.A, .enna), (.I1, .enn1), (.I2, .enn2), (.I3, .enn3), (.I4, .enn4), (.I5, .enn5), (.I6, .enn6), (.X, .ennx)]

/-- The loads and the negative loads, each with the sign it loads for a word's sign. -/
def allLoadForms : List ((Sign → Sign) × Reg × (Addr → Byte → Instr)) :=
  loadForms.map (fun e => (id, e)) ++ loadNegForms.map (fun e => (Sign.flip, e))

/-- The stores, each with the word it stores (42_load_store.md R266 to R275). -/
def allStoreForms : List ((State → Word) × (Addr → Byte → Instr)) :=
  storeForms.map (fun e => (fun s => s.reg e.1, e.2)) ++ [(fun _ => Word.plusZero, .stz)]

/-- ADD and SUB, each with its operation on values. -/
def addSubForms : List ((Int → Int → Int) × (Addr → Byte → Instr)) :=
  [(fun a v => a + v, .add), (fun a v => a - v, .sub)]

/-- INCr and DECr, each with its operation on values. -/
def incDecForms : List ((Int → Int → Int) × Reg × (Addr → Instr)) :=
  incForms.map (fun e => (fun a v => a + v, e)) ++ decForms.map (fun e => (fun a v => a - v, e))

/-- ENTr and ENNr, each with the sign it enters for the sign of M. -/
def entEnnForms : List ((Sign → Sign) × Reg × (Addr → Instr)) :=
  entForms.map (fun e => (id, e)) ++ ennForms.map (fun e => (Sign.flip, e))

/-- The 48 register jumps, each with its test on the register's value (40_alu.md R165). -/
def regJumpForms : List ((Int → Bool) × Reg × (Addr → Instr)) :=
  jumpNegForms.map (fun e => (fun v => decide (v < 0), e)) ++
  jumpZeroForms.map (fun e => (fun v => decide (v = 0), e)) ++
  jumpPosForms.map (fun e => (fun v => decide (0 < v), e)) ++
  jumpNonNegForms.map (fun e => (fun v => decide (0 ≤ v), e)) ++
  jumpNonZeroForms.map (fun e => (fun v => decide (v ≠ 0), e)) ++
  jumpNonPosForms.map (fun e => (fun v => decide (v ≤ 0), e))

/-- IN and OUT, each with its operation. -/
def startIoForms : List (IoOp × (Addr → Byte → Instr)) := [(.input, .inp), (.output, .out)]

/-- The six shifts. -/
def shiftForms : List (Addr → Instr) := [.sla, .sra, .slax, .srax, .slc, .src]

/-- The registers an instruction with these C and F bytes may write (10_state.md R34). -/
def mayWrite (r : Reg) (c f : Nat) : Prop :=
  match r with
  | .A => c ∈ [1, 2, 3, 4, 6, 8, 16, 48] ∨ (c = 5 ∧ f ≤ 1)
  | .X => c ∈ [3, 4, 15, 23, 55] ∨ (c = 5 ∧ f = 1) ∨ (c = 6 ∧ 2 ≤ f)
  | .I1 => c ∈ [7, 9, 17, 49]
  | .I2 => c ∈ [10, 18, 50]
  | .I3 => c ∈ [11, 19, 51]
  | .I4 => c ∈ [12, 20, 52]
  | .I5 => c ∈ [13, 21, 53]
  | .I6 => c ∈ [14, 22, 54]
  | .J => c ∈ [34, 38] ∨ (c = 39 ∧ f ≠ 1) ∨ (40 ≤ c ∧ c ≤ 47)

/-- How many F values a variant opcode defines, from 0 on (30_encoding.md R109). -/
def variantCount (c : Nat) : Option Nat :=
  if c = 5 then some 3
  else if c = 6 then some 6
  else if c = 39 then some 10
  else if 40 ≤ c ∧ c ≤ 47 then some 6
  else if 48 ≤ c ∧ c ≤ 55 then some 4
  else none

end Sys2Proof.Machine
end

