-- ==== Sys2Proof/Certificates/Slice0/Obligations.lean ====
section
/-! DEFINITION. The statements for the provers. A rule R<n> is one of spec/, a decision D<n> a row of
spec/92_eei_decisions.md ("the spec's own choice" where its source is silent), "log" is notes/assumptions/. Statements about
an instruction speak of phases EXECUTE and ADVANCE (`exec`); O8 carries them to a step. The fields hostIn, hostLog and
params, in whatever frame they stand, are the model's own: logs 5, 6 and 8. -/

open Sys2Proof Sys2Proof.Machine

/-! ### Encoding -/

/-- Decoding the word of an instruction gives the instruction back, every operand at every value (R101, R108). The
layout and the numbering are the spec's decisions D4 and D5. -/
def Obligations.DecodeOfEncode : Prop :=
  ∀ i : Instr, decode (encode i) = .ok i ∧ decodeTableWord 32 (packWord (encode i)) = some i

/-- No two words decode to one instruction, and no bit of a word is dropped (R101, R108). Decisions D4 and D5. -/
def Obligations.EncodeOfDecoded : Prop :=
  ∀ (w : Word) (i : Instr), decode w = .ok i → encode i = w

/-- R109: exactly the listed F values of the variant opcodes are instructions; every other one halts, and F = 6 on
ADD, SUB, MUL, DIV and CMPA is an invalid field specification. Decision D5. -/
def Obligations.UndefinedVariantsHalt : Prop :=
  ∀ s : State, s.run = .running → addrOk s.pc = true →
    let w := s.wordAt s.pc.toNat
    ((∃ i, decode w = .ok i) ↔ ∀ k, variantCount w.b5.toNat = some k → w.b4.toNat < k) ∧
    ((∃ k, variantCount w.b5.toNat = some k ∧ k ≤ w.b4.toNat) →
      step s = .next (s.haltedFor .invalidOpcodeOrVariant)) ∧
    (w.b5.toNat ∈ [1, 2, 3, 4, 56] → w.b4.toNat = 6 → w.b3.toNat ≤ 6 →
      step s = .next (s.haltedFor .invalidFieldSpec))

/-- R100: the layout of a word packed into 31 bits. Decision D3. -/
def Obligations.PackingLayout : Prop :=
  ∀ w : Word, packWord w = (if w.sign = .minus then 2 ^ 30 else 0) + w.mag ∧ packWord w < 2 ^ 31 ∧
    (packWord w / 2 ^ 30 = if w.sign = .minus then 1 else 0) ∧
    (∀ k, 1 ≤ k → k ≤ 5 → packWord w / 2 ^ (30 - 6 * k) % 64 = (w.byte k).toNat) ∧
    unpackWord (packWord w) = w

/-- Words written out from the encoding tables (R101, R108, R109) decode to the instructions they stand for. Decisions
D4 and D5. -/
def Obligations.SampleWordsDecode : Prop :=
  decode ⟨.plus, 31, 16, 2, 5, 8⟩ = .ok (.lda ⟨.plus, 2000, 2⟩ 5) ∧
  decode ⟨.minus, 0, 1, 0, 13, 24⟩ = .ok (.sta ⟨.minus, 1, 0⟩ 13) ∧
  decode ⟨.plus, 0, 0, 6, 3, 6⟩ = .ok (.srax ⟨.plus, 0, 6⟩) ∧
  decode ⟨.plus, 63, 63, 0, 9, 39⟩ = .ok (.jle ⟨.plus, 4095, 0⟩) ∧
  decode ⟨.plus, 0, 0, 0, 4, 47⟩ = .ok (.jxnz ⟨.plus, 0, 0⟩) ∧
  decode ⟨.minus, 0, 0, 1, 3, 51⟩ = .ok (.enn3 ⟨.minus, 0, 1⟩) ∧
  decode ⟨.plus, 15, 40, 0, 18, 37⟩ = .ok (.out ⟨.plus, 1000, 0⟩ 18) ∧
  decode ⟨.plus, 0, 0, 0, 3, 5⟩ = .error (.undefinedVariant 5 3)

/-- The effective address (R102, R104): the address field, or its sign-magnitude sum with the index register. A zero
sum takes the address field's sign. Decision D40. -/
def Obligations.EffectiveAddress : Prop :=
  ∀ (m : Addr) (s : State),
    (m.idx.toNat = 0 → ∃ ma, effAddr m s = .ok ma ∧ ma.sign = m.sign ∧ ma.mag = m.mag.toNat) ∧
    (∀ k r, indexRegs[k]? = some r → m.idx.toNat = k + 1 → (s.reg r).mag < idxLimit →
      ∃ ma, effAddr m s = .ok ma ∧
        ma.val = (if m.sign = .plus then (m.mag.toNat : Int) else -m.mag.toNat) + (s.reg r).val ∧
        ma.mag ≤ 8190 ∧ (ma.mag = 0 → ma.sign = m.sign))

/-- R203: an index byte above 6 halts, whatever the word's opcode, before any effect. Decision D6. -/
def Obligations.IndexByteAboveSixHalts : Prop :=
  ∀ s : State, s.run = .running → addrOk s.pc = true → 6 < (s.wordAt s.pc.toNat).b3.toNat →
    step s = .next (s.haltedFor .invalidOpcodeOrVariant)

/-! ### The step -/

/-- A step runs the instruction that the word at pc decodes to, and then, unless that halted, updates the devices, checks
the registers, records and, for HLT, stops (the phases of 41_cycle.md). -/
def Obligations.StepRunsTheDecodedInstruction : Prop :=
  ∀ (s : State) (i : Instr), s.run = .running → addrOk s.pc = true → decode (s.wordAt s.pc.toNat) = .ok i →
    ∃ t, exec i s = .next t ∧
      ((∃ reason info, t.run = .halted reason info) → step s = .next t) ∧
      (t.run = .running →
        (∀ h, ioUpdate s.pc (cost s i) (armedUnit i) t = .error h → step s = .next h) ∧
        (∀ t₁, ioUpdate s.pc (cost s i) (armedUnit i) t = .ok t₁ →
          (∀ h, checkRegs s.pc t₁ = .error h → step s = .next h) ∧
          (∀ t₂, checkRegs s.pc t₁ = .ok t₂ →
            step s = .next (stopPhase s.pc i (record s.pc (cost s i) t₂)))))

/-- R201: a fetch outside 0..3999 halts with that pc in both fields of the halt record. Decision D7. -/
def Obligations.FetchOutOfRangeHalts : Prop :=
  ∀ s : State, s.run = .running → (s.pc < 0 ∨ 3999 < s.pc) →
    step s = .next (s.setRun (.halted .illegalAddress { pc := s.pc, addr := some s.pc }))

/-- A step exists only from a RUNNING state, and from each of them (41_cycle.md section 1). That the model shows the missing
step as this fault is its own choice, log 9. -/
def Obligations.StepExistsExactlyWhileRunning : Prop :=
  ∀ s : State, ((∃ t, step s = .next t) ↔ s.run = .running) ∧
    (s.run ≠ .running → step s = .fault .haltedHasNoStep)

/-- R210: the first of I1..I6, J with magnitude 4096 or more halts the step; the register keeps its value. -/
def Obligations.RegisterCheckHalts : Prop :=
  ∀ (s t t₁ : State) (i : Instr) (pre post : List Reg) (r : Reg), s.run = .running → addrOk s.pc = true →
    decode (s.wordAt s.pc.toNat) = .ok i → exec i s = .next t → t.run = .running →
    ioUpdate s.pc (cost s i) (armedUnit i) t = .ok t₁ →
    [Reg.I1, .I2, .I3, .I4, .I5, .I6, .J] = pre ++ r :: post →
    (∀ q ∈ pre, (t₁.reg q).mag < 4096) → 4096 ≤ (t₁.reg r).mag →
    step s = .next (t₁.setRun (.halted .registerOverflow { pc := s.pc, reg := some r }))

/-- R211: a step that passes phase CHECK adds 1 and its cost to the two counters of its cell, and to no other. -/
def Obligations.ProfilingRecord : Prop :=
  ∀ (s t t₁ : State) (i : Instr), s.run = .running → addrOk s.pc = true →
    decode (s.wordAt s.pc.toNat) = .ok i → exec i s = .next t → t.run = .running →
    ioUpdate s.pc (cost s i) (armedUnit i) t = .ok t₁ →
    (∀ r ∈ [Reg.I1, .I2, .I3, .I4, .I5, .I6, .J], (t₁.reg r).mag < 4096) →
    ∃ u, step s = .next u ∧
      tableRead 0 u.execCount s.pc.toNat = tableRead 0 s.execCount s.pc.toNat + 1 ∧
      tableRead 0 u.execTime s.pc.toNat = tableRead 0 s.execTime s.pc.toNat + cost s i ∧
      (∀ n, n ≠ s.pc.toNat → tableRead 0 u.execCount n = tableRead 0 s.execCount n ∧
        tableRead 0 u.execTime n = tableRead 0 s.execTime n) ∧
      regsKept [] t₁ u ∧ memKept t₁ u ∧ flagsKept t₁ u ∧ devicesKept t₁ u ∧ u.pc = t₁.pc

/-- R552: the halt record of every halt. Decision D41. -/
def Obligations.HaltRecordIsExact : Prop :=
  ∀ (s u : State) (reason : HaltReason) (info : HaltInfo), s.Inv → step s = .next u → u.run = .halted reason info →
    info.pc = s.pc ∧
    (if reason = .illegalAddress then ∃ n : Int, info.addr = some n ∧ (n < 0 ∨ 4000 ≤ n) else info.addr = none) ∧
    (if reason = .registerOverflow then
      ∃ pre r post, [Reg.I1, .I2, .I3, .I4, .I5, .I6, .J] = pre ++ r :: post ∧ info.reg = some r ∧
        4096 ≤ (u.reg r).mag ∧ ∀ q ∈ pre, (u.reg q).mag < 4096
     else info.reg = none) ∧
    (if reason = .deviceError then
      ∃ k text, k ≤ 20 ∧ info.unit = some k ∧ info.text = some text ∧ (u.dev k).lastError = some text
     else info.unit = none ∧ info.text = none) ∧
    info.shown = (match info.addr with
      | some n => n
      | none => info.pc)

/-- What each halt keeps (the table of 60_exceptions.md section 1): pc, and the other effects of the halting step.
Decision D10. -/
def Obligations.HaltsKeepWhatTheTableSays : Prop :=
  ∀ (s u : State) (reason : HaltReason) (info : HaltInfo), s.run = .running → step s = .next u →
    u.run = .halted reason info →
    (reason = .invalidFieldSpec ∨ reason = .invalidOpcodeOrVariant → u = s.haltedFor reason) ∧
    (reason = .illegalAddress → u.pc = s.pc ∧ regsKept [] s u ∧ flagsKept s u ∧ devicesKept s u ∧
      ((s.wordAt s.pc.toNat).b5.toNat ≠ 7 → memKept s u)) ∧
    (reason = .divisionFailure → u = (s.setOvf true).haltedFor .divisionFailure) ∧
    (reason = .halt → u.pc = s.pc + 1 ∧ ∃ m, decode (s.wordAt s.pc.toNat) = .ok (.hlt m)) ∧
    (reason ≠ .halt → u.execCount = s.execCount ∧ u.execTime = s.execTime)

/-- R215: the cost of MOVE, of IOC, IN and OUT, and of every other instruction, which is one entry of the configuration
table TIME: any table of costs of at least 1 is admitted, an entry is read by opcode and variant alone, and the default
figures, which State.reset has, are those of the rule. Decisions D24 and D33, logs 8, 20 and 21. -/
def Obligations.TimeTable : Prop :=
  (∀ (s : State) (i : Instr), 1 ≤ cost s i) ∧
  (∀ (s : State) (m : Addr) (f : Byte), cost s (.move m f) = 1 + 2 * f.toNat ∧
    ∀ e ∈ [Instr.ioc, .inp, .out], cost s (e m f) = 1 + (s.dev f.toNat).timer) ∧
  (∀ (s t : State) (i j : Instr), s.params.time = t.params.time → opByte i = opByte j → opByte i ∉ [7, 35, 36, 37] →
    (variantCount (opByte i) = none ∨ fByte i = fByte j) → cost s i = cost t j) ∧
  (∀ g : Nat → Nat → Nat, (∀ c v, 1 ≤ g c v) → ∃ table : CostTable, ∀ (s : State) (i : Instr),
    s.params.time = table → opByte i ∉ [7, 35, 36, 37] →
    cost s i = g (opByte i) (if (variantCount (opByte i)).isSome then fByte i else 0)) ∧
  (∀ (s : State) (i : Instr), s.params.time = State.reset.params.time →
    cost s i = (
      let c := opByte i
      if c = 0 then 1
      else if c ≤ 2 then 2
      else if c = 3 then 10
      else if c = 4 then 12
      else if c = 5 then (if fByte i = 2 then 1 else 10)
      else if c = 6 then 2
      else if c = 7 then 1 + 2 * fByte i
      else if c ≤ 33 then 2
      else if c = 34 ∨ c = 38 then 1
      else if c ≤ 37 then 1 + (s.dev (fByte i)).timer
      else if c ≤ 55 then 1
      else 2))

/-- R212: HLT halts the machine after the whole step, pc advanced. Decision D11. -/
def Obligations.HltHalts : Prop :=
  ∀ (s : State) (m : Addr), m.indexOk = true →
    (∃ t, exec (.hlt m) s = .next t ∧ t.pc = s.pc + 1 ∧ regsKept [] s t ∧ memKept s t ∧ flagsKept s t ∧
      surroundingsKept s t ∧
      ∀ t₁, s.run = .running → addrOk s.pc = true → decode (s.wordAt s.pc.toNat) = .ok (.hlt m) →
        ioUpdate s.pc (cost s (.hlt m)) none t = .ok t₁ →
        (∀ r ∈ [Reg.I1, .I2, .I3, .I4, .I5, .I6, .J], (t₁.reg r).mag < 4096) →
        ∃ u, step s = .next u ∧ u.run = .halted .halt { pc := s.pc } ∧ u.pc = s.pc + 1 ∧
          regsKept [] s u ∧ memKept t₁ u ∧ flagsKept s u ∧ devicesKept t₁ u ∧
          tableRead 0 u.execCount s.pc.toNat = tableRead 0 s.execCount s.pc.toNat + 1 ∧
          tableRead 0 u.execTime s.pc.toNat = tableRead 0 s.execTime s.pc.toNat + cost s (.hlt m))

/-! ### Reset, load and the invariant -/

/-- R45: the reset state, for any parameters. For a reserved unit `total` is the model's choice (log 13) and is not stated;
DEVTIME is open, log 4. But for run and pc, decision D22, log 3. State.reset has the default parameters of R4, decisions
D14, D18, D22 and D35, log 8; the default of TIME is O15's. -/
def Obligations.ResetState : Prop :=
  (∀ p : Params,
    let s := State.resetWith p
    (∀ r, s.reg r = ⟨.plus, 0, 0, 0, 0, 0⟩) ∧ s.pc = 0 ∧ s.ovf = false ∧ s.ci = p.resetCi ∧ s.run = .running ∧
    (∀ n, s.wordAt n = ⟨.plus, 0, 0, 0, 0, 0⟩) ∧ s.devs.length = 21 ∧
    (∀ u, u < 21 → (s.dev u).timer = 0 ∧ (s.dev u).addr = 0 ∧ (s.dev u).field = 0 ∧ (s.dev u).op = .input ∧
      (s.dev u).lastError = none ∧ (implementedUnit u → (s.dev u).total = devTime u)) ∧
    (∀ n, tableRead 0 s.execCount n = 0 ∧ tableRead 0 s.execTime n = 0) ∧ s.params = p) ∧
  State.reset = State.resetWith State.reset.params ∧ State.reset.ci = .equal ∧
  State.reset.params.shiftUnit.bits = 6 ∧ State.reset.params.divRemSign = .product ∧
  State.reset.params.tapeBlockWords = 100

/-- The reset state satisfies the invariant, with the default parameters and with any others. -/
def Obligations.ResetSatisfiesInv : Prop := State.reset.Inv ∧ ∀ p, (State.resetWith p).Inv

/-- Every step from every state that satisfies the invariant leads to one that does: canonical memory and counters,
device records the rules allow (each with an address in the range of M and, while its timer runs, a direction its unit
takes), J an address, pc in the range of M, and I1..I6 below 4096 while the machine runs (R32,
R33, R35, R41). Decisions D8, D33 and D46. -/
def Obligations.EveryStepKeepsInv : Prop :=
  ∀ s t : State, s.Inv → step s = .next t → t.Inv

/-- R602: a load resets the machine whatever its state was, places the image and sets pc to the entry point, which is
not checked. Decision D22. -/
def Obligations.LoadPlacesTheImage : Prop :=
  ∀ (s : State) (image : List (Nat × Word)) (entry : Int),
    (∀ c ∈ image, c.1 ≤ 3999) → (image.map Prod.fst).Nodup →
    (∀ a w, (a, w) ∈ image → (hostLoad s image entry).wordAt a = w) ∧
    (∀ a, (∀ c ∈ image, c.1 ≠ a) → (hostLoad s image entry).wordAt a = Word.plusZero) ∧
    (hostLoad s image entry).pc = entry ∧ regsKept [] State.reset (hostLoad s image entry) ∧
    (hostLoad s image entry).ovf = false ∧ (hostLoad s image entry).ci = s.params.resetCi ∧
    (hostLoad s image entry).run = .running ∧
    (hostLoad s image entry).execCount = [] ∧ (hostLoad s image entry).execTime = [] ∧
    (hostLoad s image entry).devs = State.reset.devs ∧ Memory.wf (hostLoad s image entry).mem = true ∧
    (entry < 0 ∨ 3999 < entry → step (hostLoad s image entry) = .next ((hostLoad s image entry).setRun
      (.halted .illegalAddress { pc := entry, addr := some entry })))

/-! ### Who may write what, over all instructions -/

/-- The flags (10_state.md section 3): only a compare changes ci, only JOV and JNOV clear ovf, and only the listed
instructions set it. Decisions D12 and D20. -/
def Obligations.FlagWriters : Prop :=
  ∀ s u : State, s.Inv → step s = .next u →
    let c := (s.wordAt s.pc.toNat).b5.toNat
    let f := (s.wordAt s.pc.toNat).b4.toNat
    (u.ci ≠ s.ci → 56 ≤ c) ∧
    (s.ovf = true → u.ovf = false → c = 39 ∧ (f = 2 ∨ f = 3)) ∧
    (s.ovf = false → u.ovf = true → c ∈ [1, 2, 4] ∨ (c = 5 ∧ f = 0) ∨ ((c = 48 ∨ c = 55) ∧ f ≤ 1))

/-- J (10_state.md section 1): it changes only in a jump other than JSJ, it then holds `W(+, pc + 1)`, and every such
jump that transfers control writes it. Decisions D37 and D46. -/
def Obligations.JumpRegisterWriters : Prop :=
  ∀ s u : State, step s = .next u →
    let c := (s.wordAt s.pc.toNat).b5.toNat
    let f := (s.wordAt s.pc.toNat).b4.toNat
    (u.j ≠ s.j → mayWrite .J c f ∧ u.j = Word.ofMag .plus (s.pc + 1).toNat) ∧
    (mayWrite .J c f → u.run = .running → u.pc ≠ s.pc + 1 → u.j = Word.ofMag .plus (s.pc + 1).toNat)

/-- The table of 10_state.md section 1: a step changes a register only if its instruction may write it. -/
def Obligations.RegisterWriters : Prop :=
  ∀ (s u : State) (r : Reg), step s = .next u → u.reg r ≠ s.reg r →
    mayWrite r (s.wordAt s.pc.toNat).b5.toNat (s.wordAt s.pc.toNat).b4.toNat

/-- The table of 20_memory.md section 2: only MOVE, the stores and, through a forced transfer, IN, OUT and IOC write memory
as they execute; only those three touch a device or the host's side, which is the model's hostIn and hostLog, logs 5 and
6. -/
def Obligations.MemoryAndDeviceWriters : Prop :=
  ∀ (i : Instr) (s t : State), exec i s = .next t →
    ((∃ n, t.wordAt n ≠ s.wordAt n) → opByte i = 7 ∨ (24 ≤ opByte i ∧ opByte i ≤ 33) ∨
      (35 ≤ opByte i ∧ opByte i ≤ 37)) ∧
    (t.devs ≠ s.devs ∨ t.hostIn ≠ s.hostIn ∨ t.hostLog ≠ s.hostLog → 35 ≤ opByte i ∧ opByte i ≤ 37)

/-- No instruction reads the profiling counters, and none writes them as it executes (10_state.md section 7). -/
def Obligations.CountersAreInvisible : Prop :=
  ∀ (i : Instr) (s t : State) (ec et : Counters), exec i s = .next t →
    exec i (s.withCounters ec et) = .next (t.withCounters ec et)

/-! ### Loads and stores -/

/-- The loads and the negative loads: the register receives the field, with its sign flipped by a negative load (R250
to R265), and nothing else changes but pc. Decision D15. -/
def Obligations.LoadsSetTheRegister : Prop :=
  ∀ e ∈ allLoadForms, ∀ (m : Addr) (f : Byte) (s : State) (ma : Word) (p : FieldSpec),
    effAddr m s = .ok ma → fieldSpec f = some p → addrOk ma.val = true →
    ∃ t, exec (e.2.2 m f) s = .next t ∧
      (t.reg e.2.1).sign = e.1 (extractField (s.wordAt ma.val.toNat) p).sign ∧
      (t.reg e.2.1).mag = (extractField (s.wordAt ma.val.toNat) p).mag ∧
      regsKept [e.2.1] s t ∧ t.pc = s.pc + 1 ∧ memKept s t ∧ flagsKept s t ∧ surroundingsKept s t

/-- The stores: the field of the word at M is replaced (R266 to R275), no other word and nothing else but pc changes.
Decision D16. -/
def Obligations.StoresReplaceTheField : Prop :=
  ∀ e ∈ allStoreForms, ∀ (m : Addr) (f : Byte) (s : State) (ma : Word) (p : FieldSpec),
    Memory.wf s.mem = true → effAddr m s = .ok ma → fieldSpec f = some p → addrOk ma.val = true →
    ∃ t, exec (e.2 m f) s = .next t ∧
      t.wordAt ma.val.toNat = insertField (s.wordAt ma.val.toNat) (e.1 s) p ∧
      memKeptBut ma.val.toNat s t ∧ regsKept [] s t ∧ t.pc = s.pc + 1 ∧ flagsKept s t ∧ surroundingsKept s t

/-! ### Arithmetic -/

/-- ADD and SUB (R300, R301 with R152, R153): A receives the exact sum or difference, or on overflow its magnitude
less 2^30 with ovf set; a zero keeps A's sign; ovf is never cleared. Decision D12. -/
def Obligations.AddSubExact : Prop :=
  ∀ e ∈ addSubForms, ∀ (m : Addr) (f : Byte) (s : State) (ma : Word) (p : FieldSpec),
    effAddr m s = .ok ma → fieldSpec f = some p → addrOk ma.val = true →
    ∃ t, exec (e.2 m f) s = .next t ∧
      sumInto s.a (e.1 s.a.val (extractField (s.wordAt ma.val.toNat) p).val) s.ovf t.a t.ovf ∧ t.ci = s.ci ∧
      regsKept [.A] s t ∧ t.pc = s.pc + 1 ∧ memKept s t ∧ surroundingsKept s t

/-- MUL (R302 with R156): A and X receive the 60-bit product, both with its sign. -/
def Obligations.MulExact : Prop :=
  ∀ (m : Addr) (f : Byte) (s : State) (ma : Word) (p : FieldSpec),
    effAddr m s = .ok ma → fieldSpec f = some p → addrOk ma.val = true →
    ∃ t, exec (.mul m f) s = .next t ∧
      magLimit * t.a.mag + t.x.mag = s.a.mag * (extractField (s.wordAt ma.val.toNat) p).mag ∧
      t.a.sign = Sign.same s.a.sign (extractField (s.wordAt ma.val.toNat) p).sign ∧ t.x.sign = t.a.sign ∧
      regsKept [.A, .X] s t ∧ t.pc = s.pc + 1 ∧ memKept s t ∧ flagsKept s t ∧ surroundingsKept s t

/-- DIV (R303 with R157): quotient and remainder of the 60-bit dividend, or ovf set and a halt with A and X as they
were. The remainder has the quotient's sign or the dividend's, which is A's, by the parameter DIV_REM_SIGN, log 8.
Decisions D13 and D14. -/
def Obligations.DivExactOrHalts : Prop :=
  ∀ (m : Addr) (f : Byte) (s : State) (ma : Word) (p : FieldSpec),
    effAddr m s = .ok ma → fieldSpec f = some p → addrOk ma.val = true →
    let v := extractField (s.wordAt ma.val.toNat) p
    (s.a.mag < v.mag → ∃ t, exec (.div m f) s = .next t ∧
      t.a.mag * v.mag + t.x.mag = magLimit * s.a.mag + s.x.mag ∧ t.x.mag < v.mag ∧
      t.a.sign = Sign.same s.a.sign v.sign ∧
      t.x.sign = (if s.params.divRemSign = .product then t.a.sign else s.a.sign) ∧
      regsKept [.A, .X] s t ∧ t.pc = s.pc + 1 ∧ memKept s t ∧ flagsKept s t ∧ surroundingsKept s t) ∧
    (v.mag = 0 ∨ v.mag ≤ s.a.mag → exec (.div m f) s = .next ((s.setOvf true).haltedFor .divisionFailure))

/-! ### Conversion and no operation -/

/-- NUM (R320 with R162): the ten bytes mod 10 as a decimal number; ovf is set when it does not fit, never cleared.
Decision D20. -/
def Obligations.NumReadsTenDigits : Prop :=
  ∀ (m : Addr) (s : State), m.indexOk = true →
    let d (c : Byte) : Nat := c.toNat % 10
    let v := 10 ^ 9 * d s.a.b1 + 10 ^ 8 * d s.a.b2 + 10 ^ 7 * d s.a.b3 + 10 ^ 6 * d s.a.b4 + 10 ^ 5 * d s.a.b5 +
      10 ^ 4 * d s.x.b1 + 10 ^ 3 * d s.x.b2 + 10 ^ 2 * d s.x.b3 + 10 * d s.x.b4 + d s.x.b5
    ∃ t, exec (.num m) s = .next t ∧ t.a.sign = s.a.sign ∧ t.a.mag = v % magLimit ∧
      (t.ovf = true ↔ s.ovf = true ∨ magLimit ≤ v) ∧ t.ci = s.ci ∧
      regsKept [.A] s t ∧ t.pc = s.pc + 1 ∧ memKept s t ∧ surroundingsKept s t

/-- CHAR (R321 with R163): ten digit codes, both signs kept; the codes read back as the number. Decision D21. -/
def Obligations.CharWritesTenDigits : Prop :=
  ∀ (m : Addr) (s : State), m.indexOk = true →
    ∃ t, exec (.char m) s = .next t ∧ t.a.sign = s.a.sign ∧ t.x.sign = s.x.sign ∧
      (∀ k, 1 ≤ k → k ≤ 5 → (t.a.byte k).toNat = 30 + s.a.mag / 10 ^ (10 - k) % 10 ∧
        (t.x.byte k).toNat = 30 + s.a.mag / 10 ^ (5 - k) % 10) ∧
      wordToDecimal t.a t.x = s.a.mag ∧
      regsKept [.A, .X] s t ∧ t.pc = s.pc + 1 ∧ memKept s t ∧ flagsKept s t ∧ surroundingsKept s t

/-- NOP (R323): pc advances and nothing else changes, whatever F and M are. -/
def Obligations.NopOnlyAdvances : Prop :=
  ∀ (m : Addr) (f : Byte) (s : State), m.indexOk = true →
    ∃ t, exec (.nop m f) s = .next t ∧ t.pc = s.pc + 1 ∧ regsKept [] s t ∧ memKept s t ∧ flagsKept s t ∧
      surroundingsKept s t

/-! ### Shifts and MOVE -/

/-- SLA and SRA (R340, R341 with R159): A's magnitude moves M units of SHIFT_UNIT_BITS bits, zeros enter, the sign stays;
with the unit of a byte, A's bytes move M places. The parameter is any of its two values, log 8. Decision D18. -/
def Obligations.SingleShiftsMoveUnits : Prop :=
  ∀ (m : Addr) (s : State) (ma : Word), effAddr m s = .ok ma → (ma.mag = 0 ∨ ma.sign = .plus) →
    let d := s.params.shiftUnit.bits * ma.mag
    (∃ t, exec (.sla m) s = .next t ∧ t.a.sign = s.a.sign ∧ t.a.mag = 2 ^ d * s.a.mag % magLimit ∧
      (s.params.shiftUnit = .byte →
        ∀ k, 1 ≤ k → k ≤ 5 → t.a.byte k = if k + ma.mag ≤ 5 then s.a.byte (k + ma.mag) else 0) ∧
      regsKept [.A] s t ∧ t.pc = s.pc + 1 ∧ memKept s t ∧ flagsKept s t ∧ surroundingsKept s t) ∧
    (∃ t, exec (.sra m) s = .next t ∧ t.a.sign = s.a.sign ∧ t.a.mag = s.a.mag / 2 ^ d ∧
      (s.params.shiftUnit = .byte →
        ∀ k, 1 ≤ k → k ≤ 5 → t.a.byte k = if ma.mag < k then s.a.byte (k - ma.mag) else 0) ∧
      regsKept [.A] s t ∧ t.pc = s.pc + 1 ∧ memKept s t ∧ flagsKept s t ∧ surroundingsKept s t)

/-- SLAX, SRAX, SLC and SRC (R342 to R345 with R160, R161): the 60 bits of A and X move M units of SHIFT_UNIT_BITS bits,
zeros entering or the bits going round; both signs stay; with the unit of a byte, the ten bytes move M places. The
parameter is any of its two values, log 8. Decision D18. -/
def Obligations.DoubleShiftsMoveUnits : Prop :=
  ∀ (m : Addr) (s : State) (ma : Word), effAddr m s = .ok ma → (ma.mag = 0 ∨ ma.sign = .plus) →
    let n := ma.mag
    let d := s.params.shiftUnit.bits * n
    let r := d % 60
    let p := pairMag s.a s.x
    let old (k : Nat) : Byte := (pairBytes s.a s.x).getD k 0
    ∀ e ∈ ([(.slax, 2 ^ d * p % 2 ^ 60, fun k => if k + n < 10 then old (k + n) else 0),
            (.srax, p / 2 ^ d, fun k => if n ≤ k then old (k - n) else 0),
            (.slc, 2 ^ r * p % 2 ^ 60 + p / 2 ^ (60 - r), fun k => old ((k + n) % 10)),
            (.src, p / 2 ^ r + 2 ^ (60 - r) * p % 2 ^ 60, fun k => old ((k + (10 - n % 10)) % 10))] :
            List ((Addr → Instr) × Nat × (Nat → Byte))),
      ∃ t, exec (e.1 m) s = .next t ∧ t.a.sign = s.a.sign ∧ t.x.sign = s.x.sign ∧ pairMag t.a t.x = e.2.1 ∧
        (s.params.shiftUnit = .byte → ∀ k, k < 10 → (pairBytes t.a t.x).getD k 0 = e.2.2 k) ∧
        regsKept [.A, .X] s t ∧ t.pc = s.pc + 1 ∧ memKept s t ∧ flagsKept s t ∧ surroundingsKept s t

/-- R347: the shift count, and the distance of so many units of SHIFT_UNIT_BITS bits, 6 or 1, log 8; a negative count halts
each of the six shifts before any change. Decision D18. -/
def Obligations.ShiftCount : Prop :=
  ∀ (m : Addr) (s : State) (ma : Word), effAddr m s = .ok ma →
    (ma.mag = 0 → shiftCount ma s = .ok 0) ∧
    (ma.sign = .plus → shiftCount ma s = .ok ma.mag) ∧
    (ma.sign = .minus → 0 < ma.mag →
      ∀ e ∈ shiftForms, exec (e m) s = .next (s.haltedFor .invalidOpcodeOrVariant)) ∧
    (∀ n, shiftCount ma s = .ok n →
      shiftBits m s = .ok (if s.params.shiftUnit = .byte then n * 6 else n))

/-- MOVE (R346): F words are copied one at a time in increasing order and I1 grows by F; F = 0 changes neither.
Decision D19. -/
def Obligations.MoveCopiesTheBlock : Prop :=
  ∀ (m : Addr) (f : Byte) (s : State) (ma : Word), Memory.wf s.mem = true → effAddr m s = .ok ma →
    (f.toNat = 0 ∨ (0 ≤ ma.val ∧ ma.val + f.toNat ≤ 4000 ∧ 0 ≤ s.i1.val ∧ s.i1.val + f.toNat ≤ 4000)) →
    ∃ t, exec (.move m f) s = .next t ∧ copiedBlock s t ma.val.toNat s.i1.val.toNat f.toNat ∧
      t.i1.val = s.i1.val + f.toNat ∧ (f.toNat = 0 → t.i1 = s.i1) ∧
      regsKept [.I1] s t ∧ t.pc = s.pc + 1 ∧ flagsKept s t ∧ surroundingsKept s t

/-- MOVE halts at the first address outside 0..3999, source before destination; the words copied before it stay copied
and I1 is unchanged (R346). Decision D19. -/
def Obligations.MoveHaltsAtTheFirstBadAddress : Prop :=
  ∀ (m : Addr) (f : Byte) (s : State) (ma : Word) (k : Nat), Memory.wf s.mem = true → effAddr m s = .ok ma →
    k < f.toNat → (∀ j : Nat, j < k → addrOk (ma.val + j) = true ∧ addrOk (s.i1.val + j) = true) →
    ∀ bad : Int, (if addrOk (ma.val + k) = true then bad = s.i1.val + k ∧ addrOk bad = false else bad = ma.val + k) →
    ∃ t, exec (.move m f) s = .next t ∧ t.run = .halted .illegalAddress { pc := s.pc, addr := some bad } ∧
      copiedBlock s t ma.val.toNat s.i1.val.toNat k ∧ regsKept [] s t ∧ t.pc = s.pc ∧ flagsKept s t ∧
      devicesKept s t ∧ t.execCount = s.execCount ∧ t.execTime = s.execTime ∧ t.params = s.params

/-! ### Compares and jumps -/

/-- The compares (R360 to R367 with R158): ci is the order of the values of the two fields; nothing else changes but
pc. Decision D17. -/
def Obligations.ComparesOrderTheValues : Prop :=
  ∀ e ∈ compareForms, ∀ (m : Addr) (f : Byte) (s : State) (ma : Word) (p : FieldSpec),
    effAddr m s = .ok ma → fieldSpec f = some p → addrOk ma.val = true →
    ∃ t, exec (e.2 m f) s = .next t ∧
      t.ci = (
        let a := (extractField (s.reg e.1) p).val
        let b := (extractField (s.wordAt ma.val.toNat) p).val
        if a < b then .less else if a = b then .equal else .greater) ∧
      t.ovf = s.ovf ∧ regsKept [] s t ∧ t.pc = s.pc + 1 ∧ memKept s t ∧ surroundingsKept s t

/-- JMP, JSJ, JOV and JNOV (R380 to R383): JSJ alone leaves J; JOV and JNOV leave ovf false whether they jump or not.
Decisions D8, D37 and D38. -/
def Obligations.PlainAndOverflowJumps : Prop :=
  ∀ (m : Addr) (s : State) (ma : Word), effAddr m s = .ok ma → addrOk s.pc = true →
    (∃ t, exec (.jmp m) s = .next t ∧ takenJump s ma.val t ∧ flagsKept s t) ∧
    (∃ t, exec (.jsj m) s = .next t ∧ t.pc = ma.val ∧ regsKept [] s t ∧ memKept s t ∧ flagsKept s t ∧
      surroundingsKept s t) ∧
    (∃ t, exec (.jov m) s = .next t ∧ t.ovf = false ∧ t.ci = s.ci ∧
      if s.ovf = true then takenJump s ma.val t else notTakenJump s t) ∧
    (∃ t, exec (.jnov m) s = .next t ∧ t.ovf = false ∧ t.ci = s.ci ∧
      if s.ovf = true then notTakenJump s t else takenJump s ma.val t)

/-- JL, JE, JG, JGE, JNE and JLE (R384 to R389): each jumps on its values of ci and on no other. Decisions D8 and D37.
-/
def Obligations.ComparisonJumps : Prop :=
  ∀ e ∈ ciJumpForms, ∀ (m : Addr) (s : State) (ma : Word), effAddr m s = .ok ma → addrOk s.pc = true →
    ∃ t, exec (e.2 m) s = .next t ∧ flagsKept s t ∧
      if s.ci ∈ e.1 then takenJump s ma.val t else notTakenJump s t

/-- The 48 register jumps (R390 to R437 with R165): each jumps exactly when its test holds of the register's value.
Decisions D8 and D37. -/
def Obligations.RegisterJumps : Prop :=
  ∀ e ∈ regJumpForms, ∀ (m : Addr) (s : State) (ma : Word), effAddr m s = .ok ma → addrOk s.pc = true →
    ∃ t, exec (e.2.2 m) s = .next t ∧ flagsKept s t ∧
      if e.1 (s.reg e.2.1).val = true then takenJump s ma.val t else notTakenJump s t

/-! ### Address transfer -/

/-- INCr and DECr (R450, R451, R454 to R479): the register receives the exact sum or difference with M, by the rules of
sign-magnitude addition; on overflow its magnitude less 2^30 under the old sign, with ovf set, and ovf is never cleared.
Decision D12. -/
def Obligations.IncDecExact : Prop :=
  ∀ e ∈ incDecForms, ∀ (m : Addr) (s : State) (ma : Word), effAddr m s = .ok ma →
    ∃ t, exec (e.2.2 m) s = .next t ∧
      sumInto (s.reg e.2.1) (e.1 (s.reg e.2.1).val ma.val) s.ovf (t.reg e.2.1) t.ovf ∧ t.ci = s.ci ∧
      regsKept [e.2.1] s t ∧ t.pc = s.pc + 1 ∧ memKept s t ∧ surroundingsKept s t

/-- ENTr and ENNr (R452, R453, R456 to R481): the register receives M, with its own or the other sign, zeros included. -/
def Obligations.EntEnnEnterM : Prop :=
  ∀ e ∈ entEnnForms, ∀ (m : Addr) (s : State) (ma : Word), effAddr m s = .ok ma →
    ∃ t, exec (e.2.2 m) s = .next t ∧ (t.reg e.2.1).sign = e.1 ma.sign ∧ (t.reg e.2.1).mag = ma.mag ∧
      regsKept [e.2.1] s t ∧ t.pc = s.pc + 1 ∧ memKept s t ∧ flagsKept s t ∧ surroundingsKept s t

/-! ### Input and output -/

/-- JBUS and JRED (R502, R503): they jump while the unit's timer runs, or while it does not, and change no device.
Decision D37. -/
def Obligations.BusyAndReadyJumps : Prop :=
  ∀ (m : Addr) (f : Byte) (s : State) (ma : Word), effAddr m s = .ok ma → addrOk s.pc = true → f.toNat ≤ 20 →
    (∃ t, exec (.jbus m f) s = .next t ∧ flagsKept s t ∧
      if 0 < (s.dev f.toNat).timer then takenJump s ma.val t else notTakenJump s t) ∧
    (∃ t, exec (.jred m f) s = .next t ∧ flagsKept s t ∧
      if (s.dev f.toNat).timer = 0 then takenJump s ma.val t else notTakenJump s t)

/-- R493: IN and OUT arm their unit with its full time. The pending operation of a unit that still waits is
transferred first; if that fails the step halts and the unit keeps its old record. Decisions D26 and D47. DEVTIME is open,
log 4; hostIn and hostLog are the model's choice, logs 5 and 6. -/
def Obligations.ArmWithForcedCompletion : Prop :=
  ∀ e ∈ startIoForms, ∀ (m : Addr) (f : Byte) (s : State) (ma : Word), effAddr m s = .ok ma →
    unitTakes e.1 f.toNat → s.devs.length = 21 →
    let u := f.toNat
    let armed : DevRec :=
      { addr := ma.val, field := f, op := e.1, total := devTime u, timer := devTime u,
        lastError := (s.dev u).lastError }
    armedUnit (e.2 m f) = some u ∧
    ((s.dev u).timer ≤ (s.dev u).total / 2 → ∃ t, exec (e.2 m f) s = .next t ∧ t.dev u = armed ∧
      (∀ v, v ≠ u → t.dev v = s.dev v) ∧ t.hostIn = s.hostIn ∧ t.hostLog = s.hostLog ∧
      regsKept [] s t ∧ t.pc = s.pc + 1 ∧ memKept s t ∧ flagsKept s t ∧ controlKept s t) ∧
    ((s.dev u).total / 2 < (s.dev u).timer →
      (∀ s₁, transfer s.pc u s = .ok s₁ → ∃ t, exec (e.2 m f) s = .next t ∧ t.dev u = armed ∧
        (∀ v, v ≠ u → t.dev v = s.dev v) ∧ t.hostIn = s₁.hostIn ∧ t.hostLog = s₁.hostLog ∧
        regsKept [] s t ∧ t.pc = s.pc + 1 ∧ memKept s₁ t ∧ flagsKept s t ∧ controlKept s t) ∧
      (∀ h, transfer s.pc u s = .error h → exec (e.2 m f) s = .next h ∧ h.pc = s.pc ∧
        h.dev u = { s.dev u with lastError := (h.dev u).lastError }))

/-- IOC (R506): a waiting transfer is forced, the unit goes idle, and the host is asked to act on M; an error of
either halts with DeviceError. Decision D30. That the host's answer is read from hostIn and the request kept in hostLog is
the model's choice, logs 5 and 6. -/
def Obligations.IocForcesThenAsksTheHost : Prop :=
  ∀ (m : Addr) (f : Byte) (s s₁ : State) (ma : Word), effAddr m s = .ok ma → implementedUnit f.toNat →
    s.devs.length = 21 →
    let u := f.toNat
    let s₂ := s₁.setDev u { s₁.dev u with timer := 0 }
    (∀ h, (s.dev u).total / 2 < (s.dev u).timer → transfer s.pc u s = .error h → exec (.ioc m f) s = .next h) ∧
    ((if (s.dev u).total / 2 < (s.dev u).timer then transfer s.pc u s = .ok s₁ else s₁ = s) →
      (hostErr s₂ (.hostControl u ma) = none → ∃ t, exec (.ioc m f) s = .next t ∧
        t.dev u = { s.dev u with timer := 0 } ∧ (∀ v, v ≠ u → t.dev v = s.dev v) ∧
        t.hostLog = s₁.hostLog ++ [.hostControl u ma] ∧ t.hostIn = s₁.hostIn.tail ∧
        regsKept [] s t ∧ t.pc = s.pc + 1 ∧ memKept s₁ t ∧ flagsKept s t ∧ controlKept s t) ∧
      (∀ text, hostErr s₂ (.hostControl u ma) = some text → ∃ h, exec (.ioc m f) s = .next h ∧
        h.run = .halted .deviceError { pc := s.pc, unit := some u, text := some text } ∧
        h.dev u = { s.dev u with timer := 0, lastError := some text } ∧ h.pc = s.pc ∧ memKept s₁ h))

/-- R507: the unit check of the five I/O instructions, and the timer of a reserved unit. Decisions D27 and D28. -/
def Obligations.UnitChecks : Prop :=
  ∀ (m : Addr) (f : Byte) (s : State),
    (20 < f.toNat → ∀ e ∈ [Instr.jbus, .jred, .ioc, .inp, .out],
      exec (e m f) s = .next (s.haltedFor .invalidOpcodeOrVariant)) ∧
    (reservedUnit f.toNat → ∀ e ∈ [Instr.inp, .out, .ioc],
      exec (e m f) s = .next (s.haltedFor .invalidOpcodeOrVariant)) ∧
    (f.toNat = 18 → exec (.inp m f) s = .next (s.haltedFor .invalidOpcodeOrVariant)) ∧
    (f.toNat = 16 → exec (.out m f) s = .next (s.haltedFor .invalidOpcodeOrVariant)) ∧
    (f.toNat ≤ 20 → m.indexOk = true → ∀ e ∈ [Instr.jbus, .jred],
      ∃ t, exec (e m f) s = .next t ∧ t.run = s.run) ∧
    (reservedUnit f.toNat → s.Inv → (s.dev f.toNat).timer = 0)

/-! ### Operand checks -/

/-- R106: which F bytes are field specifications, and the halt of every instruction with a field whose F is none. -/
def Obligations.FieldSpecCheck : Prop :=
  (∀ f : Byte, (fieldSpec f).isSome = true ↔ f.toNat / 8 ≤ f.toNat % 8 ∧ f.toNat % 8 ≤ 5) ∧
  (∀ f : Byte, (fieldSpec f).isSome = true ↔
    f.toNat ∈ [0, 1, 2, 3, 4, 5, 9, 10, 11, 12, 13, 18, 19, 20, 21, 27, 28, 29, 36, 37, 45]) ∧
  ∀ e ∈ fieldForms, ∀ (m : Addr) (f : Byte) (s : State), m.indexOk = true →
    (5 < f.toNat / 8 ∨ 5 < f.toNat % 8 ∨ f.toNat % 8 < f.toNat / 8) →
    exec (e m f) s = .next (s.haltedFor .invalidFieldSpec)

/-- R73: an address outside 0..3999 is not accessed and halts with the address in the halt record. Decision D39 for
the address −0. -/
def Obligations.AddressCheck : Prop :=
  (∀ (n : Int) (w : Word) (s : State),
    (n < 0 ∨ 4000 ≤ n →
      memRead n s = .error (s.setRun (.halted .illegalAddress { pc := s.pc, addr := some n })) ∧
      memWrite n w s = .error (s.setRun (.halted .illegalAddress { pc := s.pc, addr := some n }))) ∧
    (0 ≤ n → n < 4000 → memRead n s = .ok (s.wordAt n.toNat) ∧
      ∃ t, memWrite n w s = .ok t ∧ (Memory.wf s.mem = true → t.wordAt n.toNat = w) ∧ memKeptBut n.toNat s t)) ∧
  Word.minusZero.val = 0 ∧
  ∀ e ∈ fieldForms, ∀ (m : Addr) (f : Byte) (s : State) (ma : Word), effAddr m s = .ok ma →
    (fieldSpec f).isSome = true → (ma.val < 0 ∨ 4000 ≤ ma.val) →
    exec (e m f) s = .next (s.setRun (.halted .illegalAddress { pc := s.pc, addr := some ma.val }))

/-! ### The ALU -/

/-- R150: field extraction, with the laws the rule quotes. -/
def Obligations.FieldExtraction : Prop :=
  (∀ (w : Word) (f : Byte), ¬ (f.toNat / 8 ≤ f.toNat % 8 ∧ f.toNat % 8 ≤ 5) → applyField w f = none) ∧
  (∀ (w : Word) (f : Byte), f.toNat / 8 ≤ f.toNat % 8 → f.toNat % 8 ≤ 5 → ∃ v, applyField w f = some v ∧
    v.sign = (if f.toNat / 8 = 0 then w.sign else .plus) ∧
    v.mag = ∑ k ∈ Finset.Icc (max (f.toNat / 8) 1) (f.toNat % 8), 64 ^ (f.toNat % 8 - k) * (w.byte k).toNat) ∧
  (∀ w : Word, applyField w 5 = some w ∧ applyField w 45 = some ⟨.plus, 0, 0, 0, 0, w.b5⟩ ∧
    applyField w 0 = some ⟨w.sign, 0, 0, 0, 0, 0⟩)

/-- R151: field insertion, and that the field then reads as the stored word's low bytes. Decision D16. -/
def Obligations.FieldInsertion : Prop :=
  (∀ (d r : Word) (f : Byte), ¬ (f.toNat / 8 ≤ f.toNat % 8 ∧ f.toNat % 8 ≤ 5) → storeField d r f = none) ∧
  (∀ (d r : Word) (f : Byte), f.toNat / 8 ≤ f.toNat % 8 → f.toNat % 8 ≤ 5 → ∃ d', storeField d r f = some d' ∧
    d'.sign = (if f.toNat / 8 = 0 then r.sign else d.sign) ∧
    (∀ k, 1 ≤ k → k ≤ 5 → d'.byte k =
      if max (f.toNat / 8) 1 ≤ k ∧ k ≤ f.toNat % 8 then r.byte (5 - (f.toNat % 8 - k)) else d.byte k) ∧
    ∃ v, applyField d' f = some v ∧ v.mag = r.mag % 64 ^ (f.toNat % 8 + 1 - max (f.toNat / 8) 1))

/-- The laws of sign-magnitude addition (40_alu.md section 2): the value, what commutes and what does not, the sign of a
word plus its negation, and adding a zero. -/
def Obligations.AdditionLaws : Prop :=
  (∀ d s : Word, (smAdd d s).2 = false → (smAdd d s).1.val = d.val + s.val) ∧
  (∀ d s : Word, (smAdd d s).1.val = (smAdd s d).1.val ∧ (smAdd d s).1.mag = (smAdd s d).1.mag ∧
    (smAdd d s).2 = (smAdd s d).2) ∧
  (∀ d s : Word, (smAdd d s).1.sign ≠ (smAdd s d).1.sign ↔ (smAdd d s).1.mag = 0 ∧ d.sign ≠ s.sign) ∧
  (∀ w : Word, smAdd w (negate w) = (⟨w.sign, 0, 0, 0, 0, 0⟩, false)) ∧
  (∀ d s : Word, s.mag = 0 → smAdd d s = (d, false))

/-! ### Device transfers and timers -/

/-- The timer update (49_io.md section 2): every unit but the one armed in this step falls by the cost; the first unit that
crosses its threshold has its operation transferred, with the timers up to its own lowered; a transfer happens only at a
crossing; the first one that fails halts, and later units are not updated. Several crossings in one update are O59.
Decisions D23 and D25. hostIn and hostLog are the model's choice, logs 5 and 6. -/
def Obligations.TimerUpdate : Prop :=
  ∀ (pc0 : Int) (c : Nat) (armed : Option Nat) (s : State), s.devs.length = 21 →
    (∀ t, ioUpdate pc0 c armed s = .ok t → coreKept s t ∧ t.run = s.run ∧ ∀ u, u ≤ 20 →
      t.dev u = if armed = some u then s.dev u else { s.dev u with timer := (s.dev u).timer - c }) ∧
    (∀ h, ioUpdate pc0 c armed s = .error h → coreKept s h ∧ ∃ u text, u ≤ 20 ∧ armed ≠ some u ∧ crosses s u c ∧
      h.run = .halted .deviceError { pc := pc0, unit := some u, text := some text } ∧
      h.dev u = { s.dev u with timer := (s.dev u).timer - c, lastError := some text } ∧
      (∀ v, v < u → h.dev v = if armed = some v then s.dev v else { s.dev v with timer := (s.dev v).timer - c }) ∧
      (∀ v, u < v → h.dev v = s.dev v)) ∧
    ((∀ u, u ≤ 20 → armed = some u ∨ ¬ crosses s u c) →
      ∃ t, ioUpdate pc0 c armed s = .ok t ∧ memKept s t ∧ t.hostIn = s.hostIn ∧ t.hostLog = s.hostLog) ∧
    (∀ u, u ≤ 20 → armed ≠ some u → crosses s u c → (∀ v, v < u → armed = some v ∨ ¬ crosses s v c) →
      let s' := s.lowerTimers c armed (u + 1)
      (∀ h, transfer pc0 u s' = .error h → ioUpdate pc0 c armed s = .error h) ∧
      (∀ s₁, transfer pc0 u s' = .ok s₁ → (∀ v, u < v → v ≤ 20 → armed = some v ∨ ¬ crosses s v c) →
        ∃ t, ioUpdate pc0 c armed s = .ok t ∧ memKept s₁ t ∧ t.hostIn = s₁.hostIn ∧ t.hostLog = s₁.hostLog))

/-- A transfer fails on a bad block, with no request made, or on an `Err` of the host, which takes the request and the
answer (R496, R497); memory is unchanged. Decision D29 for the block. A tape block has TAPE_BLOCK_WORDS
words, a parameter, decision D35, log 8; logs 5 and 6 for hostIn and hostLog. -/
def Obligations.TransferFailureHalts : Prop :=
  ∀ (pc0 : Int) (u : Nat) (s : State), s.devs.length = 21 → implementedUnit u → unitTakes (s.dev u).op u →
    ((s.dev u).addr < 0 ∨ 3999 < (s.dev u).addr + blockLength s u - 1 →
      failsWith pc0 u "bad target address" s (transfer pc0 u s) ∧
      ∀ h, transfer pc0 u s = .error h → h.hostLog = s.hostLog ∧ h.hostIn = s.hostIn) ∧
    (0 ≤ (s.dev u).addr → (s.dev u).addr + blockLength s u - 1 ≤ 3999 →
      ∀ text, hostErr s (transferRequest s u) = some text → failsWith pc0 u text s (transfer pc0 u s) ∧
        ∀ h, transfer pc0 u s = .error h →
          h.hostLog = s.hostLog ++ [transferRequest s u] ∧ h.hostIn = s.hostIn.tail)

/-- R498, R500: an input transfer writes the host's block, 16 words of five codes from a card or a tape record, and no
other word. Decision D36. A tape record has TAPE_BLOCK_WORDS words, a parameter, decision D35, log 8; logs 5 and 6 for
hostIn and hostLog. -/
def Obligations.InputTransfersFillTheBlock : Prop :=
  ∀ (pc0 : Int) (u : Nat) (s : State), s.devs.length = 21 → Memory.wf s.mem = true → unitTakes .input u →
    (s.dev u).op = .input → 0 ≤ (s.dev u).addr → (s.dev u).addr + blockLength s u - 1 ≤ 3999 →
    let a := (s.dev u).addr.toNat
    let req : HostRequest := if u = 16 then .readCard else .tapeRead u
    (hostErr s req = none → ∃ t, transfer pc0 u s = .ok t ∧
      (∀ k, k < blockLength s u → t.wordAt (a + k) =
        if u = 16 then
          ⟨.plus, hostCode s req (5 * k), hostCode s req (5 * k + 1), hostCode s req (5 * k + 2),
            hostCode s req (5 * k + 3), hostCode s req (5 * k + 4)⟩
        else hostWord s req k) ∧
      (∀ n, n < a ∨ a + blockLength s u ≤ n → t.wordAt n = s.wordAt n) ∧
      t.hostLog = s.hostLog ++ [req] ∧ t.hostIn = s.hostIn.tail ∧ t.devs = s.devs ∧ t.run = s.run ∧ coreKept s t) ∧
    (∀ text, hostErr s req = some text → failsWith pc0 u text s (transfer pc0 u s))

/-- R499, R501: an output transfer sends the block as memory holds it then, 120 codes without signs to the printer or
the words themselves to a tape, and writes no memory. Decision D36. A tape block has TAPE_BLOCK_WORDS
words, a parameter, decision D35, log 8; logs 5 and 6 for hostIn and hostLog. -/
def Obligations.OutputTransfersSendTheBlock : Prop :=
  ∀ (pc0 : Int) (u : Nat) (s : State), s.devs.length = 21 → unitTakes .output u →
    (s.dev u).op = .output → 0 ≤ (s.dev u).addr → (s.dev u).addr + blockLength s u - 1 ≤ 3999 →
    let a := (s.dev u).addr.toNat
    (∀ codes, transferRequest s u = .printLine codes → codes.length = 120 ∧
      ∀ k, k < 24 → ∀ j, j < 5 → codes[5 * k + j]? = some ((s.wordAt (a + k)).byte (j + 1))) ∧
    (∀ v ws, transferRequest s u = .tapeWrite v ws → v = u ∧ ws.length = s.params.tapeBlockWords ∧
      ∀ k, k < s.params.tapeBlockWords → ws[k]? = some (s.wordAt (a + k))) ∧
    (hostErr s (transferRequest s u) = none → ∃ t, transfer pc0 u s = .ok t ∧
      t.hostLog = s.hostLog ++ [transferRequest s u] ∧ t.hostIn = s.hostIn.tail ∧
      memKept s t ∧ t.devs = s.devs ∧ t.run = s.run ∧ coreKept s t) ∧
    (∀ text, hostErr s (transferRequest s u) = some text → failsWith pc0 u text s (transfer pc0 u s))

/-- A pending unit goes idle (49_io.md section 2): over n steps that keep running and do not re-arm it, its timer
falls by at least n. Decision D33. -/
def Obligations.PendingUnitGoesIdle : Prop :=
  ∀ (σ : Nat → State) (u n : Nat), u ≤ 20 → (σ 0).devs.length = 21 →
    (∀ k, k < n → step (σ k) = .next (σ (k + 1)) ∧ (σ (k + 1)).run = .running ∧ ¬ armsUnit (σ k) u) →
    ((σ n).dev u).timer ≤ ((σ 0).dev u).timer - n

/-- The whole timer update (49_io.md R494): the turns of units 0..20 in order, each of them a skip of the armed unit, a
lowered timer, or a lowered timer and the transfer of a unit that crosses its threshold, made once. The update succeeds
exactly if every turn does, and halts with the failure of the first transfer that fails. Decisions D23 and D25. -/
def Obligations.EachCrossingTransfersOnce : Prop :=
  ∀ (pc0 : Int) (c : Nat) (armed : Option Nat) (s : State), s.devs.length = 21 →
    (∀ t, ioUpdate pc0 c armed s = .ok t ↔ ∃ σ : Nat → State, σ 0 = s ∧ σ 21 = t ∧
      ∀ u, u < 21 → turnLeads pc0 c armed s u (σ u) (σ (u + 1))) ∧
    (∀ h, ioUpdate pc0 c armed s = .error h ↔ ∃ (σ : Nat → State) (n : Nat), n < 21 ∧ σ 0 = s ∧
      (∀ u, u < n → turnLeads pc0 c armed s u (σ u) (σ (u + 1))) ∧ armed ≠ some n ∧ crosses s n c ∧
      transfer pc0 n ((σ n).lowerTimer n c) = .error h)

/-! ### Configuration -/

/-- The parameters of R4 are configuration: no step writes one, and neither reset nor load of the host does. That State
holds them is the model's own way to take them as an argument, log 8. -/
def Obligations.ParametersAreFixed : Prop :=
  (∀ s u : State, step s = .next u → u.params = s.params) ∧
  (∀ s : State, (hostReset s).params = s.params ∧ (hostFailedLoad s).params = s.params) ∧
  (∀ (s : State) (image : List (Nat × Word)) (entry : Int), (hostLoad s image entry).params = s.params)
end

