-- ==== Sys2Proof/Laws/Word.lean ====
section
/-! SUPPORT. The laws of words: a magnitude is below 2^30, and `W(s, m)`, `mag` and `sign` are inverse to each other. -/

namespace Sys2Proof

theorem Word.mag_lt (w : Word) : w.mag < magLimit := by
  have := w.b1.isLt; have := w.b2.isLt; have := w.b3.isLt; have := w.b4.isLt; have := w.b5.isLt
  simp only [Word.mag, magLimit]; omega

@[simp] theorem Word.ofMag_sign (s : Sign) (m : Nat) : (Word.ofMag s m).sign = s := rfl

theorem Word.mag_ofMag {m : Nat} (s : Sign) (h : m < magLimit) : (Word.ofMag s m).mag = m := by
  simp only [magLimit] at h
  simp only [Word.mag, Word.ofMag, BitVec.toNat_ofNat]; omega

theorem Word.mag_ofMag_mod (s : Sign) (m : Nat) : (Word.ofMag s m).mag = m % magLimit := by
  simp only [Word.mag, Word.ofMag, BitVec.toNat_ofNat, magLimit]; omega

@[simp] theorem Word.mag_ofMag_zero (s : Sign) : (Word.ofMag s 0).mag = 0 :=
  Word.mag_ofMag s (by decide)

theorem Word.ofMag_mag (w : Word) : Word.ofMag w.sign w.mag = w := by
  obtain ⟨s, b1, b2, b3, b4, b5⟩ := w
  have := b1.isLt; have := b2.isLt; have := b3.isLt; have := b4.isLt; have := b5.isLt
  simp only [Word.mag, Word.ofMag, Word.mk.injEq, true_and]
  refine ⟨?_, ?_, ?_, ?_, ?_⟩ <;> apply BitVec.eq_of_toNat_eq <;> simp only [BitVec.toNat_ofNat] <;> omega

theorem Word.ext_of_mag {w v : Word} (hs : w.sign = v.sign) (hm : w.mag = v.mag) : w = v := by
  rw [← Word.ofMag_mag w, ← Word.ofMag_mag v, hs, hm]

theorem Word.val_plus {w : Word} (h : w.sign = .plus) : w.val = w.mag := by simp [Word.val, h]

theorem Word.val_minus {w : Word} (h : w.sign = .minus) : w.val = -w.mag := by simp [Word.val, h]

theorem Word.val_cases (w : Word) :
    (w.sign = .plus ∧ w.val = (w.mag : Int)) ∨ (w.sign = .minus ∧ w.val = -(w.mag : Int)) := by
  cases h : w.sign <;> simp [Word.val, h]

theorem Word.natAbs_val (w : Word) : w.val.natAbs = w.mag := by
  cases h : w.sign <;> simp [Word.val, h]

theorem Word.val_ofMag_plus {m : Nat} (h : m < magLimit) : (Word.ofMag .plus m).val = m := by
  rw [Word.val_plus rfl, Word.mag_ofMag _ h]

theorem Word.val_ofMag_minus {m : Nat} (h : m < magLimit) : (Word.ofMag .minus m).val = -m := by
  rw [Word.val_minus rfl, Word.mag_ofMag _ h]

@[simp] theorem Sign.flip_flip (s : Sign) : s.flip.flip = s := by cases s <;> rfl

@[simp] theorem Sign.same_self (s : Sign) : Sign.same s s = .plus := by simp [Sign.same]

theorem Sign.same_of_ne {s t : Sign} (h : s ≠ t) : Sign.same s t = .minus := by simp [Sign.same, h]

end Sys2Proof
end

