-- ==== Sys2Proof/Laws/Alu.lean ====
section
/-! SUPPORT. What sign-magnitude addition gives, case by case (40_alu.md R152 to R154). -/

namespace Sys2Proof.Machine

theorem smAdd_of_same {d s : Word} (h : d.sign = s.sign) :
    smAdd d s =
      (Word.ofMag d.sign ((d.mag + s.mag) % magLimit), decide (magLimit ≤ d.mag + s.mag)) := by
  unfold smAdd; rw [if_pos h]

theorem smAdd_of_gt {d s : Word} (h : d.sign ≠ s.sign) (h' : s.mag < d.mag) :
    smAdd d s = (Word.ofMag d.sign (d.mag - s.mag), false) := by
  unfold smAdd; rw [if_neg h, if_pos h']

theorem smAdd_of_lt {d s : Word} (h : d.sign ≠ s.sign) (h' : d.mag < s.mag) :
    smAdd d s = (Word.ofMag s.sign (s.mag - d.mag), false) := by
  unfold smAdd; rw [if_neg h, if_neg (by omega), if_pos h']

theorem smAdd_of_eq {d s : Word} (h : d.sign ≠ s.sign) (h' : d.mag = s.mag) :
    smAdd d s = (Word.ofMag d.sign 0, false) := by
  unfold smAdd; rw [if_neg h, if_neg (by omega), if_neg (by omega)]

/-- Everything `smAdd d s` can be: its sign, its magnitude and its overflow. -/
theorem smAdd_cases (d s : Word) :
    (d.sign = s.sign ∧ (smAdd d s).1.sign = d.sign ∧
      ((d.mag + s.mag < magLimit ∧ (smAdd d s).1.mag = d.mag + s.mag ∧ (smAdd d s).2 = false) ∨
       (magLimit ≤ d.mag + s.mag ∧ (smAdd d s).1.mag + magLimit = d.mag + s.mag ∧ (smAdd d s).2 = true))) ∨
    (d.sign ≠ s.sign ∧ (smAdd d s).2 = false ∧
      ((s.mag < d.mag ∧ (smAdd d s).1.sign = d.sign ∧ (smAdd d s).1.mag + s.mag = d.mag) ∨
       (d.mag < s.mag ∧ (smAdd d s).1.sign = s.sign ∧ (smAdd d s).1.mag + d.mag = s.mag) ∨
       (d.mag = s.mag ∧ (smAdd d s).1.sign = d.sign ∧ (smAdd d s).1.mag = 0))) := by
  have hd := d.mag_lt
  have hs := s.mag_lt
  by_cases h : d.sign = s.sign
  · refine .inl ⟨h, ?_⟩
    rw [smAdd_of_same h]
    refine ⟨Word.ofMag_sign _ _, ?_⟩
    rw [Word.mag_ofMag_mod]
    by_cases ho : magLimit ≤ d.mag + s.mag
    · exact .inr ⟨ho, by simp only [magLimit] at *; omega, by simpa using ho⟩
    · exact .inl ⟨by omega, by simp only [magLimit] at *; omega, by simpa using ho⟩
  · refine .inr ⟨h, ?_⟩
    rcases Nat.lt_trichotomy d.mag s.mag with ho | ho | ho
    · rw [smAdd_of_lt h ho]
      exact ⟨rfl, .inr (.inl ⟨ho, Word.ofMag_sign _ _, by rw [Word.mag_ofMag _ (by omega)]; omega⟩)⟩
    · rw [smAdd_of_eq h ho]
      exact ⟨rfl, .inr (.inr ⟨ho, Word.ofMag_sign _ _, Word.mag_ofMag_zero _⟩)⟩
    · rw [smAdd_of_gt h ho]
      exact ⟨rfl, .inl ⟨ho, Word.ofMag_sign _ _, by rw [Word.mag_ofMag _ (by omega)]; omega⟩⟩

@[simp] theorem negate_sign (w : Word) : (negate w).sign = w.sign.flip := rfl

@[simp] theorem negate_mag (w : Word) : (negate w).mag = w.mag := rfl

theorem negate_val (w : Word) : (negate w).val = -w.val := by
  cases h : w.sign <;> simp only [Word.val, negate_sign, negate_mag, h, Sign.flip, Int.neg_neg]

end Sys2Proof.Machine
end

