-- ==== Sys2Proof/Laws/State.lean ====
section
/-! SUPPORT. One lemma per field per named update of the state, so that no later proof unfolds a record update; and what
each update does to a register read, a memory read and a device read. -/

namespace Sys2Proof.Machine

@[simp] theorem State.setReg_pc (s : State) (r : Reg) (w : Word) : (s.setReg r w).pc = s.pc := by cases r <;> rfl
@[simp] theorem State.setReg_ovf (s : State) (r : Reg) (w : Word) : (s.setReg r w).ovf = s.ovf := by cases r <;> rfl
@[simp] theorem State.setReg_ci (s : State) (r : Reg) (w : Word) : (s.setReg r w).ci = s.ci := by cases r <;> rfl
@[simp] theorem State.setReg_run (s : State) (r : Reg) (w : Word) : (s.setReg r w).run = s.run := by cases r <;> rfl
@[simp] theorem State.setReg_mem (s : State) (r : Reg) (w : Word) : (s.setReg r w).mem = s.mem := by cases r <;> rfl
@[simp] theorem State.setReg_devs (s : State) (r : Reg) (w : Word) : (s.setReg r w).devs = s.devs := by cases r <;> rfl
@[simp] theorem State.setReg_execCount (s : State) (r : Reg) (w : Word) : (s.setReg r w).execCount = s.execCount := by cases r <;> rfl
@[simp] theorem State.setReg_execTime (s : State) (r : Reg) (w : Word) : (s.setReg r w).execTime = s.execTime := by cases r <;> rfl
@[simp] theorem State.setReg_params (s : State) (r : Reg) (w : Word) : (s.setReg r w).params = s.params := by cases r <;> rfl
@[simp] theorem State.setReg_hostIn (s : State) (r : Reg) (w : Word) : (s.setReg r w).hostIn = s.hostIn := by cases r <;> rfl
@[simp] theorem State.setReg_hostLog (s : State) (r : Reg) (w : Word) : (s.setReg r w).hostLog = s.hostLog := by cases r <;> rfl
@[simp] theorem State.setReg_reg_self (s : State) (r : Reg) (w : Word) : (s.setReg r w).reg r = w := by
  cases r <;> rfl
theorem State.setReg_reg_of_ne (s : State) {r r' : Reg} (w : Word) (h : r' ≠ r) : (s.setReg r w).reg r' = s.reg r' := by
  cases r <;> cases r' <;> first | rfl | exact absurd rfl h
theorem State.setReg_reg (s : State) (r r' : Reg) (w : Word) :
    (s.setReg r w).reg r' = if r' = r then w else s.reg r' := by
  cases r <;> cases r' <;> rfl

@[simp] theorem State.setPc_pc (s : State) (t : Int) : (s.setPc t).pc = t := rfl
@[simp] theorem State.setPc_ovf (s : State) (t : Int) : (s.setPc t).ovf = s.ovf := rfl
@[simp] theorem State.setPc_ci (s : State) (t : Int) : (s.setPc t).ci = s.ci := rfl
@[simp] theorem State.setPc_run (s : State) (t : Int) : (s.setPc t).run = s.run := rfl
@[simp] theorem State.setPc_mem (s : State) (t : Int) : (s.setPc t).mem = s.mem := rfl
@[simp] theorem State.setPc_devs (s : State) (t : Int) : (s.setPc t).devs = s.devs := rfl
@[simp] theorem State.setPc_execCount (s : State) (t : Int) : (s.setPc t).execCount = s.execCount := rfl
@[simp] theorem State.setPc_execTime (s : State) (t : Int) : (s.setPc t).execTime = s.execTime := rfl
@[simp] theorem State.setPc_params (s : State) (t : Int) : (s.setPc t).params = s.params := rfl
@[simp] theorem State.setPc_hostIn (s : State) (t : Int) : (s.setPc t).hostIn = s.hostIn := rfl
@[simp] theorem State.setPc_hostLog (s : State) (t : Int) : (s.setPc t).hostLog = s.hostLog := rfl
@[simp] theorem State.setPc_reg (s : State) (t : Int) (r' : Reg) : (s.setPc t).reg r' = s.reg r' := by cases r' <;> rfl

@[simp] theorem State.setOvf_pc (s : State) (b : Bool) : (s.setOvf b).pc = s.pc := rfl
@[simp] theorem State.setOvf_ovf (s : State) (b : Bool) : (s.setOvf b).ovf = b := rfl
@[simp] theorem State.setOvf_ci (s : State) (b : Bool) : (s.setOvf b).ci = s.ci := rfl
@[simp] theorem State.setOvf_run (s : State) (b : Bool) : (s.setOvf b).run = s.run := rfl
@[simp] theorem State.setOvf_mem (s : State) (b : Bool) : (s.setOvf b).mem = s.mem := rfl
@[simp] theorem State.setOvf_devs (s : State) (b : Bool) : (s.setOvf b).devs = s.devs := rfl
@[simp] theorem State.setOvf_execCount (s : State) (b : Bool) : (s.setOvf b).execCount = s.execCount := rfl
@[simp] theorem State.setOvf_execTime (s : State) (b : Bool) : (s.setOvf b).execTime = s.execTime := rfl
@[simp] theorem State.setOvf_params (s : State) (b : Bool) : (s.setOvf b).params = s.params := rfl
@[simp] theorem State.setOvf_hostIn (s : State) (b : Bool) : (s.setOvf b).hostIn = s.hostIn := rfl
@[simp] theorem State.setOvf_hostLog (s : State) (b : Bool) : (s.setOvf b).hostLog = s.hostLog := rfl
@[simp] theorem State.setOvf_reg (s : State) (b : Bool) (r' : Reg) : (s.setOvf b).reg r' = s.reg r' := by cases r' <;> rfl

@[simp] theorem State.setCi_pc (s : State) (c : Cmp) : (s.setCi c).pc = s.pc := rfl
@[simp] theorem State.setCi_ovf (s : State) (c : Cmp) : (s.setCi c).ovf = s.ovf := rfl
@[simp] theorem State.setCi_ci (s : State) (c : Cmp) : (s.setCi c).ci = c := rfl
@[simp] theorem State.setCi_run (s : State) (c : Cmp) : (s.setCi c).run = s.run := rfl
@[simp] theorem State.setCi_mem (s : State) (c : Cmp) : (s.setCi c).mem = s.mem := rfl
@[simp] theorem State.setCi_devs (s : State) (c : Cmp) : (s.setCi c).devs = s.devs := rfl
@[simp] theorem State.setCi_execCount (s : State) (c : Cmp) : (s.setCi c).execCount = s.execCount := rfl
@[simp] theorem State.setCi_execTime (s : State) (c : Cmp) : (s.setCi c).execTime = s.execTime := rfl
@[simp] theorem State.setCi_params (s : State) (c : Cmp) : (s.setCi c).params = s.params := rfl
@[simp] theorem State.setCi_hostIn (s : State) (c : Cmp) : (s.setCi c).hostIn = s.hostIn := rfl
@[simp] theorem State.setCi_hostLog (s : State) (c : Cmp) : (s.setCi c).hostLog = s.hostLog := rfl
@[simp] theorem State.setCi_reg (s : State) (c : Cmp) (r' : Reg) : (s.setCi c).reg r' = s.reg r' := by cases r' <;> rfl

@[simp] theorem State.setRun_pc (s : State) (r : RunState) : (s.setRun r).pc = s.pc := rfl
@[simp] theorem State.setRun_ovf (s : State) (r : RunState) : (s.setRun r).ovf = s.ovf := rfl
@[simp] theorem State.setRun_ci (s : State) (r : RunState) : (s.setRun r).ci = s.ci := rfl
@[simp] theorem State.setRun_run (s : State) (r : RunState) : (s.setRun r).run = r := rfl
@[simp] theorem State.setRun_mem (s : State) (r : RunState) : (s.setRun r).mem = s.mem := rfl
@[simp] theorem State.setRun_devs (s : State) (r : RunState) : (s.setRun r).devs = s.devs := rfl
@[simp] theorem State.setRun_execCount (s : State) (r : RunState) : (s.setRun r).execCount = s.execCount := rfl
@[simp] theorem State.setRun_execTime (s : State) (r : RunState) : (s.setRun r).execTime = s.execTime := rfl
@[simp] theorem State.setRun_params (s : State) (r : RunState) : (s.setRun r).params = s.params := rfl
@[simp] theorem State.setRun_hostIn (s : State) (r : RunState) : (s.setRun r).hostIn = s.hostIn := rfl
@[simp] theorem State.setRun_hostLog (s : State) (r : RunState) : (s.setRun r).hostLog = s.hostLog := rfl
@[simp] theorem State.setRun_reg (s : State) (r : RunState) (r' : Reg) : (s.setRun r).reg r' = s.reg r' := by cases r' <;> rfl

@[simp] theorem State.setMem_pc (s : State) (m : Memory) : (s.setMem m).pc = s.pc := rfl
@[simp] theorem State.setMem_ovf (s : State) (m : Memory) : (s.setMem m).ovf = s.ovf := rfl
@[simp] theorem State.setMem_ci (s : State) (m : Memory) : (s.setMem m).ci = s.ci := rfl
@[simp] theorem State.setMem_run (s : State) (m : Memory) : (s.setMem m).run = s.run := rfl
@[simp] theorem State.setMem_mem (s : State) (m : Memory) : (s.setMem m).mem = m := rfl
@[simp] theorem State.setMem_devs (s : State) (m : Memory) : (s.setMem m).devs = s.devs := rfl
@[simp] theorem State.setMem_execCount (s : State) (m : Memory) : (s.setMem m).execCount = s.execCount := rfl
@[simp] theorem State.setMem_execTime (s : State) (m : Memory) : (s.setMem m).execTime = s.execTime := rfl
@[simp] theorem State.setMem_params (s : State) (m : Memory) : (s.setMem m).params = s.params := rfl
@[simp] theorem State.setMem_hostIn (s : State) (m : Memory) : (s.setMem m).hostIn = s.hostIn := rfl
@[simp] theorem State.setMem_hostLog (s : State) (m : Memory) : (s.setMem m).hostLog = s.hostLog := rfl
@[simp] theorem State.setMem_reg (s : State) (m : Memory) (r' : Reg) : (s.setMem m).reg r' = s.reg r' := by cases r' <;> rfl

@[simp] theorem State.putWord_pc (s : State) (a : Nat) (w : Word) : (s.putWord a w).pc = s.pc := rfl
@[simp] theorem State.putWord_ovf (s : State) (a : Nat) (w : Word) : (s.putWord a w).ovf = s.ovf := rfl
@[simp] theorem State.putWord_ci (s : State) (a : Nat) (w : Word) : (s.putWord a w).ci = s.ci := rfl
@[simp] theorem State.putWord_run (s : State) (a : Nat) (w : Word) : (s.putWord a w).run = s.run := rfl
@[simp] theorem State.putWord_mem (s : State) (a : Nat) (w : Word) : (s.putWord a w).mem = tableWrite unlistedWord s.mem a w := rfl
@[simp] theorem State.putWord_devs (s : State) (a : Nat) (w : Word) : (s.putWord a w).devs = s.devs := rfl
@[simp] theorem State.putWord_execCount (s : State) (a : Nat) (w : Word) : (s.putWord a w).execCount = s.execCount := rfl
@[simp] theorem State.putWord_execTime (s : State) (a : Nat) (w : Word) : (s.putWord a w).execTime = s.execTime := rfl
@[simp] theorem State.putWord_params (s : State) (a : Nat) (w : Word) : (s.putWord a w).params = s.params := rfl
@[simp] theorem State.putWord_hostIn (s : State) (a : Nat) (w : Word) : (s.putWord a w).hostIn = s.hostIn := rfl
@[simp] theorem State.putWord_hostLog (s : State) (a : Nat) (w : Word) : (s.putWord a w).hostLog = s.hostLog := rfl
@[simp] theorem State.putWord_reg (s : State) (a : Nat) (w : Word) (r' : Reg) : (s.putWord a w).reg r' = s.reg r' := by cases r' <;> rfl

@[simp] theorem State.setDev_pc (s : State) (u : Nat) (d : DevRec) : (s.setDev u d).pc = s.pc := rfl
@[simp] theorem State.setDev_ovf (s : State) (u : Nat) (d : DevRec) : (s.setDev u d).ovf = s.ovf := rfl
@[simp] theorem State.setDev_ci (s : State) (u : Nat) (d : DevRec) : (s.setDev u d).ci = s.ci := rfl
@[simp] theorem State.setDev_run (s : State) (u : Nat) (d : DevRec) : (s.setDev u d).run = s.run := rfl
@[simp] theorem State.setDev_mem (s : State) (u : Nat) (d : DevRec) : (s.setDev u d).mem = s.mem := rfl
@[simp] theorem State.setDev_devs (s : State) (u : Nat) (d : DevRec) : (s.setDev u d).devs = s.devs.set u d := rfl
@[simp] theorem State.setDev_execCount (s : State) (u : Nat) (d : DevRec) : (s.setDev u d).execCount = s.execCount := rfl
@[simp] theorem State.setDev_execTime (s : State) (u : Nat) (d : DevRec) : (s.setDev u d).execTime = s.execTime := rfl
@[simp] theorem State.setDev_params (s : State) (u : Nat) (d : DevRec) : (s.setDev u d).params = s.params := rfl
@[simp] theorem State.setDev_hostIn (s : State) (u : Nat) (d : DevRec) : (s.setDev u d).hostIn = s.hostIn := rfl
@[simp] theorem State.setDev_hostLog (s : State) (u : Nat) (d : DevRec) : (s.setDev u d).hostLog = s.hostLog := rfl
@[simp] theorem State.setDev_reg (s : State) (u : Nat) (d : DevRec) (r' : Reg) : (s.setDev u d).reg r' = s.reg r' := by cases r' <;> rfl

@[simp] theorem State.seq_pc (s : State) : (s.seq).pc = s.pc + 1 := rfl
@[simp] theorem State.seq_ovf (s : State) : (s.seq).ovf = s.ovf := rfl
@[simp] theorem State.seq_ci (s : State) : (s.seq).ci = s.ci := rfl
@[simp] theorem State.seq_run (s : State) : (s.seq).run = s.run := rfl
@[simp] theorem State.seq_mem (s : State) : (s.seq).mem = s.mem := rfl
@[simp] theorem State.seq_devs (s : State) : (s.seq).devs = s.devs := rfl
@[simp] theorem State.seq_execCount (s : State) : (s.seq).execCount = s.execCount := rfl
@[simp] theorem State.seq_execTime (s : State) : (s.seq).execTime = s.execTime := rfl
@[simp] theorem State.seq_params (s : State) : (s.seq).params = s.params := rfl
@[simp] theorem State.seq_hostIn (s : State) : (s.seq).hostIn = s.hostIn := rfl
@[simp] theorem State.seq_hostLog (s : State) : (s.seq).hostLog = s.hostLog := rfl
@[simp] theorem State.seq_reg (s : State) (r' : Reg) : (s.seq).reg r' = s.reg r' := by cases r' <;> rfl

@[simp] theorem State.jumpTo_pc (s : State) (t : Int) : (s.jumpTo t).pc = t := rfl
@[simp] theorem State.jumpTo_ovf (s : State) (t : Int) : (s.jumpTo t).ovf = s.ovf := rfl
@[simp] theorem State.jumpTo_ci (s : State) (t : Int) : (s.jumpTo t).ci = s.ci := rfl
@[simp] theorem State.jumpTo_run (s : State) (t : Int) : (s.jumpTo t).run = s.run := rfl
@[simp] theorem State.jumpTo_mem (s : State) (t : Int) : (s.jumpTo t).mem = s.mem := rfl
@[simp] theorem State.jumpTo_devs (s : State) (t : Int) : (s.jumpTo t).devs = s.devs := rfl
@[simp] theorem State.jumpTo_execCount (s : State) (t : Int) : (s.jumpTo t).execCount = s.execCount := rfl
@[simp] theorem State.jumpTo_execTime (s : State) (t : Int) : (s.jumpTo t).execTime = s.execTime := rfl
@[simp] theorem State.jumpTo_params (s : State) (t : Int) : (s.jumpTo t).params = s.params := rfl
@[simp] theorem State.jumpTo_hostIn (s : State) (t : Int) : (s.jumpTo t).hostIn = s.hostIn := rfl
@[simp] theorem State.jumpTo_hostLog (s : State) (t : Int) : (s.jumpTo t).hostLog = s.hostLog := rfl
@[simp] theorem State.jumpTo_reg (s : State) (t : Int) (r' : Reg) : (s.jumpTo t).reg r' = s.reg r' := by cases r' <;> rfl

@[simp] theorem State.raiseOvf_pc (s : State) (o : Bool) : (s.raiseOvf o).pc = s.pc := rfl
@[simp] theorem State.raiseOvf_ovf (s : State) (o : Bool) : (s.raiseOvf o).ovf = (s.ovf || o) := rfl
@[simp] theorem State.raiseOvf_ci (s : State) (o : Bool) : (s.raiseOvf o).ci = s.ci := rfl
@[simp] theorem State.raiseOvf_run (s : State) (o : Bool) : (s.raiseOvf o).run = s.run := rfl
@[simp] theorem State.raiseOvf_mem (s : State) (o : Bool) : (s.raiseOvf o).mem = s.mem := rfl
@[simp] theorem State.raiseOvf_devs (s : State) (o : Bool) : (s.raiseOvf o).devs = s.devs := rfl
@[simp] theorem State.raiseOvf_execCount (s : State) (o : Bool) : (s.raiseOvf o).execCount = s.execCount := rfl
@[simp] theorem State.raiseOvf_execTime (s : State) (o : Bool) : (s.raiseOvf o).execTime = s.execTime := rfl
@[simp] theorem State.raiseOvf_params (s : State) (o : Bool) : (s.raiseOvf o).params = s.params := rfl
@[simp] theorem State.raiseOvf_hostIn (s : State) (o : Bool) : (s.raiseOvf o).hostIn = s.hostIn := rfl
@[simp] theorem State.raiseOvf_hostLog (s : State) (o : Bool) : (s.raiseOvf o).hostLog = s.hostLog := rfl
@[simp] theorem State.raiseOvf_reg (s : State) (o : Bool) (r' : Reg) : (s.raiseOvf o).reg r' = s.reg r' := by cases r' <;> rfl

@[simp] theorem State.logRequest_pc (s : State) (q : HostRequest) : (s.logRequest q).pc = s.pc := rfl
@[simp] theorem State.logRequest_ovf (s : State) (q : HostRequest) : (s.logRequest q).ovf = s.ovf := rfl
@[simp] theorem State.logRequest_ci (s : State) (q : HostRequest) : (s.logRequest q).ci = s.ci := rfl
@[simp] theorem State.logRequest_run (s : State) (q : HostRequest) : (s.logRequest q).run = s.run := rfl
@[simp] theorem State.logRequest_mem (s : State) (q : HostRequest) : (s.logRequest q).mem = s.mem := rfl
@[simp] theorem State.logRequest_devs (s : State) (q : HostRequest) : (s.logRequest q).devs = s.devs := rfl
@[simp] theorem State.logRequest_execCount (s : State) (q : HostRequest) : (s.logRequest q).execCount = s.execCount := rfl
@[simp] theorem State.logRequest_execTime (s : State) (q : HostRequest) : (s.logRequest q).execTime = s.execTime := rfl
@[simp] theorem State.logRequest_params (s : State) (q : HostRequest) : (s.logRequest q).params = s.params := rfl
@[simp] theorem State.logRequest_hostIn (s : State) (q : HostRequest) : (s.logRequest q).hostIn = s.hostIn.tail := rfl
@[simp] theorem State.logRequest_hostLog (s : State) (q : HostRequest) : (s.logRequest q).hostLog = s.history q := rfl
@[simp] theorem State.logRequest_reg (s : State) (q : HostRequest) (r' : Reg) : (s.logRequest q).reg r' = s.reg r' := by cases r' <;> rfl

@[simp] theorem State.reg_A (s : State) : s.reg .A = s.a := rfl
@[simp] theorem State.reg_X (s : State) : s.reg .X = s.x := rfl
@[simp] theorem State.reg_I1 (s : State) : s.reg .I1 = s.i1 := rfl
@[simp] theorem State.reg_I2 (s : State) : s.reg .I2 = s.i2 := rfl
@[simp] theorem State.reg_I3 (s : State) : s.reg .I3 = s.i3 := rfl
@[simp] theorem State.reg_I4 (s : State) : s.reg .I4 = s.i4 := rfl
@[simp] theorem State.reg_I5 (s : State) : s.reg .I5 = s.i5 := rfl
@[simp] theorem State.reg_I6 (s : State) : s.reg .I6 = s.i6 := rfl
@[simp] theorem State.reg_J (s : State) : s.reg .J = s.j := rfl
@[simp] theorem State.setPc_a (s : State) (t : Int) : (s.setPc t).a = s.a := rfl
@[simp] theorem State.setPc_x (s : State) (t : Int) : (s.setPc t).x = s.x := rfl
@[simp] theorem State.setPc_i1 (s : State) (t : Int) : (s.setPc t).i1 = s.i1 := rfl
@[simp] theorem State.setPc_i2 (s : State) (t : Int) : (s.setPc t).i2 = s.i2 := rfl
@[simp] theorem State.setPc_i3 (s : State) (t : Int) : (s.setPc t).i3 = s.i3 := rfl
@[simp] theorem State.setPc_i4 (s : State) (t : Int) : (s.setPc t).i4 = s.i4 := rfl
@[simp] theorem State.setPc_i5 (s : State) (t : Int) : (s.setPc t).i5 = s.i5 := rfl
@[simp] theorem State.setPc_i6 (s : State) (t : Int) : (s.setPc t).i6 = s.i6 := rfl
@[simp] theorem State.setPc_j (s : State) (t : Int) : (s.setPc t).j = s.j := rfl
@[simp] theorem State.setOvf_a (s : State) (b : Bool) : (s.setOvf b).a = s.a := rfl
@[simp] theorem State.setOvf_x (s : State) (b : Bool) : (s.setOvf b).x = s.x := rfl
@[simp] theorem State.setOvf_i1 (s : State) (b : Bool) : (s.setOvf b).i1 = s.i1 := rfl
@[simp] theorem State.setOvf_i2 (s : State) (b : Bool) : (s.setOvf b).i2 = s.i2 := rfl
@[simp] theorem State.setOvf_i3 (s : State) (b : Bool) : (s.setOvf b).i3 = s.i3 := rfl
@[simp] theorem State.setOvf_i4 (s : State) (b : Bool) : (s.setOvf b).i4 = s.i4 := rfl
@[simp] theorem State.setOvf_i5 (s : State) (b : Bool) : (s.setOvf b).i5 = s.i5 := rfl
@[simp] theorem State.setOvf_i6 (s : State) (b : Bool) : (s.setOvf b).i6 = s.i6 := rfl
@[simp] theorem State.setOvf_j (s : State) (b : Bool) : (s.setOvf b).j = s.j := rfl
@[simp] theorem State.setCi_a (s : State) (c : Cmp) : (s.setCi c).a = s.a := rfl
@[simp] theorem State.setCi_x (s : State) (c : Cmp) : (s.setCi c).x = s.x := rfl
@[simp] theorem State.setCi_i1 (s : State) (c : Cmp) : (s.setCi c).i1 = s.i1 := rfl
@[simp] theorem State.setCi_i2 (s : State) (c : Cmp) : (s.setCi c).i2 = s.i2 := rfl
@[simp] theorem State.setCi_i3 (s : State) (c : Cmp) : (s.setCi c).i3 = s.i3 := rfl
@[simp] theorem State.setCi_i4 (s : State) (c : Cmp) : (s.setCi c).i4 = s.i4 := rfl
@[simp] theorem State.setCi_i5 (s : State) (c : Cmp) : (s.setCi c).i5 = s.i5 := rfl
@[simp] theorem State.setCi_i6 (s : State) (c : Cmp) : (s.setCi c).i6 = s.i6 := rfl
@[simp] theorem State.setCi_j (s : State) (c : Cmp) : (s.setCi c).j = s.j := rfl
@[simp] theorem State.setRun_a (s : State) (r : RunState) : (s.setRun r).a = s.a := rfl
@[simp] theorem State.setRun_x (s : State) (r : RunState) : (s.setRun r).x = s.x := rfl
@[simp] theorem State.setRun_i1 (s : State) (r : RunState) : (s.setRun r).i1 = s.i1 := rfl
@[simp] theorem State.setRun_i2 (s : State) (r : RunState) : (s.setRun r).i2 = s.i2 := rfl
@[simp] theorem State.setRun_i3 (s : State) (r : RunState) : (s.setRun r).i3 = s.i3 := rfl
@[simp] theorem State.setRun_i4 (s : State) (r : RunState) : (s.setRun r).i4 = s.i4 := rfl
@[simp] theorem State.setRun_i5 (s : State) (r : RunState) : (s.setRun r).i5 = s.i5 := rfl
@[simp] theorem State.setRun_i6 (s : State) (r : RunState) : (s.setRun r).i6 = s.i6 := rfl
@[simp] theorem State.setRun_j (s : State) (r : RunState) : (s.setRun r).j = s.j := rfl
@[simp] theorem State.setMem_a (s : State) (m : Memory) : (s.setMem m).a = s.a := rfl
@[simp] theorem State.setMem_x (s : State) (m : Memory) : (s.setMem m).x = s.x := rfl
@[simp] theorem State.setMem_i1 (s : State) (m : Memory) : (s.setMem m).i1 = s.i1 := rfl
@[simp] theorem State.setMem_i2 (s : State) (m : Memory) : (s.setMem m).i2 = s.i2 := rfl
@[simp] theorem State.setMem_i3 (s : State) (m : Memory) : (s.setMem m).i3 = s.i3 := rfl
@[simp] theorem State.setMem_i4 (s : State) (m : Memory) : (s.setMem m).i4 = s.i4 := rfl
@[simp] theorem State.setMem_i5 (s : State) (m : Memory) : (s.setMem m).i5 = s.i5 := rfl
@[simp] theorem State.setMem_i6 (s : State) (m : Memory) : (s.setMem m).i6 = s.i6 := rfl
@[simp] theorem State.setMem_j (s : State) (m : Memory) : (s.setMem m).j = s.j := rfl
@[simp] theorem State.putWord_a (s : State) (a : Nat) (w : Word) : (s.putWord a w).a = s.a := rfl
@[simp] theorem State.putWord_x (s : State) (a : Nat) (w : Word) : (s.putWord a w).x = s.x := rfl
@[simp] theorem State.putWord_i1 (s : State) (a : Nat) (w : Word) : (s.putWord a w).i1 = s.i1 := rfl
@[simp] theorem State.putWord_i2 (s : State) (a : Nat) (w : Word) : (s.putWord a w).i2 = s.i2 := rfl
@[simp] theorem State.putWord_i3 (s : State) (a : Nat) (w : Word) : (s.putWord a w).i3 = s.i3 := rfl
@[simp] theorem State.putWord_i4 (s : State) (a : Nat) (w : Word) : (s.putWord a w).i4 = s.i4 := rfl
@[simp] theorem State.putWord_i5 (s : State) (a : Nat) (w : Word) : (s.putWord a w).i5 = s.i5 := rfl
@[simp] theorem State.putWord_i6 (s : State) (a : Nat) (w : Word) : (s.putWord a w).i6 = s.i6 := rfl
@[simp] theorem State.putWord_j (s : State) (a : Nat) (w : Word) : (s.putWord a w).j = s.j := rfl
@[simp] theorem State.setDev_a (s : State) (u : Nat) (d : DevRec) : (s.setDev u d).a = s.a := rfl
@[simp] theorem State.setDev_x (s : State) (u : Nat) (d : DevRec) : (s.setDev u d).x = s.x := rfl
@[simp] theorem State.setDev_i1 (s : State) (u : Nat) (d : DevRec) : (s.setDev u d).i1 = s.i1 := rfl
@[simp] theorem State.setDev_i2 (s : State) (u : Nat) (d : DevRec) : (s.setDev u d).i2 = s.i2 := rfl
@[simp] theorem State.setDev_i3 (s : State) (u : Nat) (d : DevRec) : (s.setDev u d).i3 = s.i3 := rfl
@[simp] theorem State.setDev_i4 (s : State) (u : Nat) (d : DevRec) : (s.setDev u d).i4 = s.i4 := rfl
@[simp] theorem State.setDev_i5 (s : State) (u : Nat) (d : DevRec) : (s.setDev u d).i5 = s.i5 := rfl
@[simp] theorem State.setDev_i6 (s : State) (u : Nat) (d : DevRec) : (s.setDev u d).i6 = s.i6 := rfl
@[simp] theorem State.setDev_j (s : State) (u : Nat) (d : DevRec) : (s.setDev u d).j = s.j := rfl
@[simp] theorem State.seq_a (s : State) : (s.seq).a = s.a := rfl
@[simp] theorem State.seq_x (s : State) : (s.seq).x = s.x := rfl
@[simp] theorem State.seq_i1 (s : State) : (s.seq).i1 = s.i1 := rfl
@[simp] theorem State.seq_i2 (s : State) : (s.seq).i2 = s.i2 := rfl
@[simp] theorem State.seq_i3 (s : State) : (s.seq).i3 = s.i3 := rfl
@[simp] theorem State.seq_i4 (s : State) : (s.seq).i4 = s.i4 := rfl
@[simp] theorem State.seq_i5 (s : State) : (s.seq).i5 = s.i5 := rfl
@[simp] theorem State.seq_i6 (s : State) : (s.seq).i6 = s.i6 := rfl
@[simp] theorem State.seq_j (s : State) : (s.seq).j = s.j := rfl
@[simp] theorem State.jumpTo_a (s : State) (t : Int) : (s.jumpTo t).a = s.a := rfl
@[simp] theorem State.jumpTo_x (s : State) (t : Int) : (s.jumpTo t).x = s.x := rfl
@[simp] theorem State.jumpTo_i1 (s : State) (t : Int) : (s.jumpTo t).i1 = s.i1 := rfl
@[simp] theorem State.jumpTo_i2 (s : State) (t : Int) : (s.jumpTo t).i2 = s.i2 := rfl
@[simp] theorem State.jumpTo_i3 (s : State) (t : Int) : (s.jumpTo t).i3 = s.i3 := rfl
@[simp] theorem State.jumpTo_i4 (s : State) (t : Int) : (s.jumpTo t).i4 = s.i4 := rfl
@[simp] theorem State.jumpTo_i5 (s : State) (t : Int) : (s.jumpTo t).i5 = s.i5 := rfl
@[simp] theorem State.jumpTo_i6 (s : State) (t : Int) : (s.jumpTo t).i6 = s.i6 := rfl
@[simp] theorem State.jumpTo_j (s : State) (t : Int) : (s.jumpTo t).j = s.j := rfl
@[simp] theorem State.raiseOvf_a (s : State) (o : Bool) : (s.raiseOvf o).a = s.a := rfl
@[simp] theorem State.raiseOvf_x (s : State) (o : Bool) : (s.raiseOvf o).x = s.x := rfl
@[simp] theorem State.raiseOvf_i1 (s : State) (o : Bool) : (s.raiseOvf o).i1 = s.i1 := rfl
@[simp] theorem State.raiseOvf_i2 (s : State) (o : Bool) : (s.raiseOvf o).i2 = s.i2 := rfl
@[simp] theorem State.raiseOvf_i3 (s : State) (o : Bool) : (s.raiseOvf o).i3 = s.i3 := rfl
@[simp] theorem State.raiseOvf_i4 (s : State) (o : Bool) : (s.raiseOvf o).i4 = s.i4 := rfl
@[simp] theorem State.raiseOvf_i5 (s : State) (o : Bool) : (s.raiseOvf o).i5 = s.i5 := rfl
@[simp] theorem State.raiseOvf_i6 (s : State) (o : Bool) : (s.raiseOvf o).i6 = s.i6 := rfl
@[simp] theorem State.raiseOvf_j (s : State) (o : Bool) : (s.raiseOvf o).j = s.j := rfl
@[simp] theorem State.logRequest_a (s : State) (q : HostRequest) : (s.logRequest q).a = s.a := rfl
@[simp] theorem State.logRequest_x (s : State) (q : HostRequest) : (s.logRequest q).x = s.x := rfl
@[simp] theorem State.logRequest_i1 (s : State) (q : HostRequest) : (s.logRequest q).i1 = s.i1 := rfl
@[simp] theorem State.logRequest_i2 (s : State) (q : HostRequest) : (s.logRequest q).i2 = s.i2 := rfl
@[simp] theorem State.logRequest_i3 (s : State) (q : HostRequest) : (s.logRequest q).i3 = s.i3 := rfl
@[simp] theorem State.logRequest_i4 (s : State) (q : HostRequest) : (s.logRequest q).i4 = s.i4 := rfl
@[simp] theorem State.logRequest_i5 (s : State) (q : HostRequest) : (s.logRequest q).i5 = s.i5 := rfl
@[simp] theorem State.logRequest_i6 (s : State) (q : HostRequest) : (s.logRequest q).i6 = s.i6 := rfl
@[simp] theorem State.logRequest_j (s : State) (q : HostRequest) : (s.logRequest q).j = s.j := rfl

/-! ### takeJump -/

@[simp] theorem State.takeJump_pc (s : State) (t : Int) : (s.takeJump t).pc = t := rfl
@[simp] theorem State.takeJump_j (s : State) (t : Int) :
    (s.takeJump t).j = Word.ofMag .plus (s.pc + 1).toNat := rfl
theorem State.takeJump_reg_of_ne (s : State) (t : Int) {r : Reg} (h : r ≠ .J) : (s.takeJump t).reg r = s.reg r := by
  cases r <;> first | rfl | exact absurd rfl h
@[simp] theorem State.takeJump_ovf (s : State) (t : Int) : (s.takeJump t).ovf = s.ovf := rfl
@[simp] theorem State.takeJump_ci (s : State) (t : Int) : (s.takeJump t).ci = s.ci := rfl
@[simp] theorem State.takeJump_run (s : State) (t : Int) : (s.takeJump t).run = s.run := rfl
@[simp] theorem State.takeJump_mem (s : State) (t : Int) : (s.takeJump t).mem = s.mem := rfl
@[simp] theorem State.takeJump_devs (s : State) (t : Int) : (s.takeJump t).devs = s.devs := rfl
@[simp] theorem State.takeJump_execCount (s : State) (t : Int) : (s.takeJump t).execCount = s.execCount := rfl
@[simp] theorem State.takeJump_execTime (s : State) (t : Int) : (s.takeJump t).execTime = s.execTime := rfl
@[simp] theorem State.takeJump_params (s : State) (t : Int) : (s.takeJump t).params = s.params := rfl
@[simp] theorem State.takeJump_hostIn (s : State) (t : Int) : (s.takeJump t).hostIn = s.hostIn := rfl
@[simp] theorem State.takeJump_hostLog (s : State) (t : Int) : (s.takeJump t).hostLog = s.hostLog := rfl

/-! ### Memory and device reads under updates that do not touch them -/

theorem State.wordAt_congr {s t : State} (h : t.mem = s.mem) (n : Nat) : t.wordAt n = s.wordAt n := by
  simp [State.wordAt, h]

theorem State.dev_congr {s t : State} (h : t.devs = s.devs) (u : Nat) : t.dev u = s.dev u := by
  simp [State.dev, h]

@[simp] theorem State.setReg_wordAt (s : State) (r : Reg) (w : Word) (n : Nat) : (s.setReg r w).wordAt n = s.wordAt n := State.wordAt_congr (by simp) n
@[simp] theorem State.setReg_dev (s : State) (r : Reg) (w : Word) (v : Nat) : (s.setReg r w).dev v = s.dev v := State.dev_congr (by simp) v
@[simp] theorem State.setPc_wordAt (s : State) (t : Int) (n : Nat) : (s.setPc t).wordAt n = s.wordAt n := State.wordAt_congr (by simp) n
@[simp] theorem State.setPc_dev (s : State) (t : Int) (v : Nat) : (s.setPc t).dev v = s.dev v := State.dev_congr (by simp) v
@[simp] theorem State.setOvf_wordAt (s : State) (b : Bool) (n : Nat) : (s.setOvf b).wordAt n = s.wordAt n := State.wordAt_congr (by simp) n
@[simp] theorem State.setOvf_dev (s : State) (b : Bool) (v : Nat) : (s.setOvf b).dev v = s.dev v := State.dev_congr (by simp) v
@[simp] theorem State.setCi_wordAt (s : State) (c : Cmp) (n : Nat) : (s.setCi c).wordAt n = s.wordAt n := State.wordAt_congr (by simp) n
@[simp] theorem State.setCi_dev (s : State) (c : Cmp) (v : Nat) : (s.setCi c).dev v = s.dev v := State.dev_congr (by simp) v
@[simp] theorem State.setRun_wordAt (s : State) (r : RunState) (n : Nat) : (s.setRun r).wordAt n = s.wordAt n := State.wordAt_congr (by simp) n
@[simp] theorem State.setRun_dev (s : State) (r : RunState) (v : Nat) : (s.setRun r).dev v = s.dev v := State.dev_congr (by simp) v
@[simp] theorem State.setMem_dev (s : State) (m : Memory) (v : Nat) : (s.setMem m).dev v = s.dev v := State.dev_congr (by simp) v
@[simp] theorem State.putWord_dev (s : State) (a : Nat) (w : Word) (v : Nat) : (s.putWord a w).dev v = s.dev v := State.dev_congr (by simp) v
@[simp] theorem State.setDev_wordAt (s : State) (u : Nat) (d : DevRec) (n : Nat) : (s.setDev u d).wordAt n = s.wordAt n := State.wordAt_congr (by simp) n
@[simp] theorem State.seq_wordAt (s : State) (n : Nat) : (s.seq).wordAt n = s.wordAt n := State.wordAt_congr (by simp) n
@[simp] theorem State.seq_dev (s : State) (v : Nat) : (s.seq).dev v = s.dev v := State.dev_congr (by simp) v
@[simp] theorem State.jumpTo_wordAt (s : State) (t : Int) (n : Nat) : (s.jumpTo t).wordAt n = s.wordAt n := State.wordAt_congr (by simp) n
@[simp] theorem State.jumpTo_dev (s : State) (t : Int) (v : Nat) : (s.jumpTo t).dev v = s.dev v := State.dev_congr (by simp) v
@[simp] theorem State.raiseOvf_wordAt (s : State) (o : Bool) (n : Nat) : (s.raiseOvf o).wordAt n = s.wordAt n := State.wordAt_congr (by simp) n
@[simp] theorem State.raiseOvf_dev (s : State) (o : Bool) (v : Nat) : (s.raiseOvf o).dev v = s.dev v := State.dev_congr (by simp) v
@[simp] theorem State.logRequest_wordAt (s : State) (q : HostRequest) (n : Nat) : (s.logRequest q).wordAt n = s.wordAt n := State.wordAt_congr (by simp) n
@[simp] theorem State.logRequest_dev (s : State) (q : HostRequest) (v : Nat) : (s.logRequest q).dev v = s.dev v := State.dev_congr (by simp) v
@[simp] theorem State.takeJump_wordAt (s : State) (t : Int) (n : Nat) : (s.takeJump t).wordAt n = s.wordAt n := State.wordAt_congr (by simp) n
@[simp] theorem State.takeJump_dev (s : State) (t : Int) (v : Nat) : (s.takeJump t).dev v = s.dev v := State.dev_congr (by simp) v

theorem State.setDev_dev_self (s : State) {u : Nat} (d : DevRec) (h : u < s.devs.length) : (s.setDev u d).dev u = d := by
  simp [State.dev, State.setDev, h]

theorem State.setDev_dev_of_ne (s : State) {u v : Nat} (d : DevRec) (h : v ≠ u) : (s.setDev u d).dev v = s.dev v := by
  simp [State.dev, State.setDev, List.getD_eq_getElem?_getD, List.getElem?_set_ne (Ne.symm h)]

theorem State.setDev_length (s : State) (u : Nat) (d : DevRec) : (s.setDev u d).devs.length = s.devs.length := by
  simp [State.setDev]

end Sys2Proof.Machine
end

