-- ==== Sys2Proof/Laws/Memory.lean ====
section
/-! SUPPORT. The laws of the sparse tables: what a read gives after a write, and that every write keeps the canonical
form, for memory and for the profiling counters. -/

namespace Sys2Proof.Machine

variable {α : Type} [DecidableEq α] {d : α}

theorem tableRead_write_of_ne (l : List (Nat × α)) {a b : Nat} (v : α) (h : b ≠ a) :
    tableRead d (tableWrite d l a v) b = tableRead d l b := by
  induction l with
  | nil =>
    by_cases hv : v = d
    · simp [tableWrite, hv]
    · simp [tableWrite, hv, tableRead, h]
  | cons e t ih =>
    obtain ⟨k, w⟩ := e
    simp only [tableWrite]
    split
    · split
      · rfl
      · simp [tableRead, h]
    · split
      · rename_i hk; subst hk
        split <;> simp [tableRead, h]
      · simp only [tableRead]; split
        · rfl
        · exact ih

theorem tableRead_of_lt {l : List (Nat × α)} {lo a : Nat} (h : tableWf d lo l = true) (ha : a < lo) :
    tableRead d l a = d := by
  induction l generalizing lo with
  | nil => rfl
  | cons e t ih =>
    obtain ⟨k, w⟩ := e
    simp only [tableWf, Bool.and_eq_true, decide_eq_true_eq] at h
    obtain ⟨⟨⟨h1, h2⟩, h3⟩, h4⟩ := h
    have hk : a ≠ k := by omega
    simp [tableRead, hk, ih h4 (by omega)]

theorem tableRead_write_self {l : List (Nat × α)} {lo : Nat} (h : tableWf d lo l = true) (a : Nat) (v : α) :
    tableRead d (tableWrite d l a v) a = v := by
  induction l generalizing lo with
  | nil =>
    by_cases hv : v = d
    · simp [tableWrite, hv, tableRead]
    · simp [tableWrite, hv, tableRead]
  | cons e t ih =>
    obtain ⟨k, w⟩ := e
    simp only [tableWf, Bool.and_eq_true, decide_eq_true_eq] at h
    obtain ⟨⟨⟨h1, h2⟩, h3⟩, h4⟩ := h
    simp only [tableWrite]
    split
    · rename_i hlt
      split
      · rename_i hv
        have hk : a ≠ k := by omega
        simp [tableRead, hk, tableRead_of_lt h4 (by omega : a < k + 1), hv]
      · simp [tableRead]
    · split
      · rename_i hk
        split
        · rename_i hv
          rw [tableRead_of_lt h4 (by omega), hv]
        · simp [tableRead]
      · rename_i hk
        simp [tableRead, hk, ih h4]

/-- A value that is not the default is read back from any table, canonical or not. -/
theorem tableRead_write_self_of_ne (l : List (Nat × α)) (a : Nat) {v : α} (hv : v ≠ d) :
    tableRead d (tableWrite d l a v) a = v := by
  induction l with
  | nil => simp [tableWrite, hv, tableRead]
  | cons e t ih =>
    obtain ⟨k, w⟩ := e
    simp only [tableWrite]
    split
    · simp [tableRead]
    · split
      · simp [tableRead]
      · rename_i hk; simp [tableRead, hk, ih]

theorem tableWf_mono {l : List (Nat × α)} {lo lo' : Nat} (h : tableWf d lo l = true) (hl : lo' ≤ lo) :
    tableWf d lo' l = true := by
  cases l with
  | nil => rfl
  | cons e t =>
    obtain ⟨k, w⟩ := e
    simp only [tableWf, Bool.and_eq_true, decide_eq_true_eq] at h ⊢
    obtain ⟨⟨⟨h1, h2⟩, h3⟩, h4⟩ := h
    exact ⟨⟨⟨by omega, h2⟩, h3⟩, h4⟩

theorem tableWf_write {l : List (Nat × α)} {lo a : Nat} (v : α) (h : tableWf d lo l = true) (hlo : lo ≤ a)
    (ha : a < memWords) : tableWf d lo (tableWrite d l a v) = true := by
  induction l generalizing lo with
  | nil =>
    by_cases hv : v = d
    · simp [tableWrite, hv, tableWf]
    · simp [tableWrite, hv, tableWf, hlo, ha]
  | cons e t ih =>
    obtain ⟨k, w⟩ := e
    have h' := h
    simp only [tableWf, Bool.and_eq_true, decide_eq_true_eq] at h
    obtain ⟨⟨⟨h1, h2⟩, h3⟩, h4⟩ := h
    simp only [tableWrite]
    split
    · rename_i hlt
      split
      · exact h'
      · rename_i hv
        simp only [tableWf, Bool.and_eq_true, decide_eq_true_eq]
        exact ⟨⟨⟨hlo, ha⟩, hv⟩, ⟨⟨⟨by omega, h2⟩, h3⟩, h4⟩⟩
    · split
      · rename_i hk; subst hk
        split
        · exact tableWf_mono h4 (by omega)
        · rename_i hv
          simp only [tableWf, Bool.and_eq_true, decide_eq_true_eq]
          exact ⟨⟨⟨hlo, ha⟩, hv⟩, h4⟩
      · rename_i hk
        simp only [tableWf, Bool.and_eq_true, decide_eq_true_eq]
        exact ⟨⟨⟨h1, h2⟩, h3⟩, ih h4 (by omega)⟩

/-! ### Memory -/

theorem State.putWord_wordAt_of_ne (s : State) {a b : Nat} (w : Word) (h : b ≠ a) :
    (s.putWord a w).wordAt b = s.wordAt b :=
  tableRead_write_of_ne s.mem w h

theorem State.putWord_wordAt_self {s : State} (h : Memory.wf s.mem = true) (a : Nat) (w : Word) :
    (s.putWord a w).wordAt a = w :=
  tableRead_write_self h a w

theorem State.putWord_wf {s : State} (h : Memory.wf s.mem = true) {a : Nat} (ha : a < memWords) (w : Word) :
    Memory.wf (s.putWord a w).mem = true :=
  tableWf_write w h (Nat.zero_le a) ha

theorem State.reset_mem_wf : Memory.wf State.reset.mem = true := rfl

/-- Every operation that writes one word at a checked address keeps the canonical form. -/
theorem memWrite_wf {s t : State} {n : Int} {w : Word} (h : Memory.wf s.mem = true) (hw : memWrite n w s = .ok t) :
    Memory.wf t.mem = true := by
  unfold memWrite at hw
  split at hw
  · rename_i hn
    simp only [addrOk, Bool.and_eq_true, decide_eq_true_eq] at hn
    cases hw
    exact State.putWord_wf h (by omega) w
  · cases hw

theorem writeBlock_wf (ws : List Word) {s : State} {a : Nat} (h : Memory.wf s.mem = true)
    (ha : a + ws.length ≤ memWords) : Memory.wf (writeBlock s a ws).mem = true := by
  induction ws generalizing s a with
  | nil => exact h
  | cons w ws ih =>
    simp only [List.length_cons] at ha
    exact ih (State.putWord_wf h (by omega) w) (by omega)

theorem writeBlock_wordAt_of_out (ws : List Word) (s : State) (a b : Nat) (h : b < a ∨ a + ws.length ≤ b) :
    (writeBlock s a ws).wordAt b = s.wordAt b := by
  induction ws generalizing s a with
  | nil => rfl
  | cons w ws ih =>
    simp only [List.length_cons] at h
    rw [writeBlock, ih _ _ (by omega), State.putWord_wordAt_of_ne s w (by omega)]

theorem writeBlock_wordAt (ws : List Word) {s : State} {a : Nat} (h : Memory.wf s.mem = true)
    (ha : a + ws.length ≤ memWords) {k : Nat} (hk : k < ws.length) :
    (writeBlock s a ws).wordAt (a + k) = ws[k] := by
  induction ws generalizing s a k with
  | nil => simp at hk
  | cons w ws ih =>
    simp only [List.length_cons] at ha hk
    rw [writeBlock]
    cases k with
    | zero =>
      rw [writeBlock_wordAt_of_out ws _ _ _ (by omega)]
      simpa using State.putWord_wordAt_self h a w
    | succ k =>
      have h' := State.putWord_wf h (by omega : a < memWords) w
      have := ih (s := s.putWord a w) (a := a + 1) (k := k) h' (by omega) (by omega)
      rw [show a + (k + 1) = a + 1 + k by omega, this]
      rfl

end Sys2Proof.Machine
end

