-- ==== Sys2Proof/Laws/Ops.lean ====
section
/-! SUPPORT. For each shared operation, once, everything it can answer: `.ok` with what it gives, or `.error` with the
halted state. Proofs cite these and do not unfold the operation. -/

namespace Sys2Proof.Machine

/-! ### Phases in sequence -/

section
variable {α β : Type}

@[simp] theorem Phase.pure_eq (a : α) : (pure a : Phase α) = .ok a := rfl

@[simp] theorem Phase.ok_bind (a : α) (k : α → Phase β) : ((Except.ok a : Phase α) >>= k) = k a := rfl

@[simp] theorem Phase.error_bind (h : State) (k : α → Phase β) : ((Except.error h : Phase α) >>= k) = .error h := rfl

theorem Phase.bind_eq_ok {p : Phase α} {k : α → Phase β} {b : β} :
    (p >>= k) = .ok b ↔ ∃ a, p = .ok a ∧ k a = .ok b := by
  cases p <;> simp

theorem Phase.bind_eq_error {p : Phase α} {k : α → Phase β} {h : State} :
    (p >>= k) = .error h ↔ p = .error h ∨ ∃ a, p = .ok a ∧ k a = .error h := by
  cases p <;> simp

end

@[simp] theorem settle_ok (s : State) : settle (.ok s) = s := rfl
@[simp] theorem settle_error (s : State) : settle (.error s) = s := rfl

theorem settle_eq {p : Phase State} {t : State} : settle p = t ↔ p = .ok t ∨ p = .error t := by
  cases p <;> simp

@[simp] theorem outcome_eq_next {p : Phase State} {t : State} : outcome p = .next t ↔ settle p = t := by
  simp [outcome]

/-! ### Halts -/

@[simp] theorem raiseHalt_ne_ok {α : Type} (r : HaltReason) (info : HaltInfo) (s : State) (a : α) :
    (raiseHalt r info s : Phase α) = .ok a ↔ False := by
  simp [raiseHalt]

theorem raiseHalt_eq_error {α : Type} {r : HaltReason} {info : HaltInfo} {s h : State} :
    (raiseHalt r info s : Phase α) = .error h ↔ h = s.setRun (.halted r info) := by
  simp [raiseHalt, eq_comm]

/-! ### Memory access -/

theorem addrOk_iff {n : Int} : addrOk n = true ↔ 0 ≤ n ∧ n < 4000 := by
  simp [addrOk, memWords]

theorem memRead_eq_ok {n : Int} {s : State} {w : Word} :
    memRead n s = .ok w ↔ addrOk n = true ∧ s.wordAt n.toNat = w := by
  unfold memRead; split <;> simp_all

theorem memRead_eq_error {n : Int} {s h : State} :
    memRead n s = .error h ↔
      addrOk n = false ∧ h = s.setRun (.halted .illegalAddress { pc := s.pc, addr := some n }) := by
  unfold memRead
  split <;> rename_i hn
  · simp [hn]
  · simp [raiseHalt_eq_error, hn]

theorem memWrite_eq_ok {n : Int} {w : Word} {s t : State} :
    memWrite n w s = .ok t ↔ addrOk n = true ∧ s.putWord n.toNat w = t := by
  unfold memWrite; split <;> simp_all

theorem memWrite_eq_error {n : Int} {w : Word} {s h : State} :
    memWrite n w s = .error h ↔
      addrOk n = false ∧ h = s.setRun (.halted .illegalAddress { pc := s.pc, addr := some n }) := by
  unfold memWrite
  split <;> rename_i hn
  · simp [hn]
  · simp [raiseHalt_eq_error, hn]

/-! ### Operand forms -/

theorem indexReg_isSome_iff (b : Byte) : (indexReg b).isSome = true ↔ b.toNat ≤ 6 := by
  revert b; decide +kernel

theorem indexReg_mem {b : Byte} {r : Reg} (h : indexReg b = some (some r)) :
    r ∈ [Reg.I1, .I2, .I3, .I4, .I5, .I6] := by
  have all : ∀ b : Byte, ∀ r, indexReg b = some (some r) → r ∈ [Reg.I1, .I2, .I3, .I4, .I5, .I6] := by
    intro b r
    unfold indexReg
    split <;> simp <;> rintro rfl <;> simp
  exact all b r h

theorem effAddr_eq_ok {m : Addr} {s : State} {ma : Word} :
    effAddr m s = .ok ma ↔
      (indexReg m.idx = some none ∧ addrWord m = ma) ∨
      ∃ r, indexReg m.idx = some (some r) ∧ (smAdd (addrWord m) (s.reg r)).1 = ma := by
  unfold effAddr
  split <;> rename_i h <;> simp [h, invalidInstr]

theorem effAddr_eq_error {m : Addr} {s h : State} :
    effAddr m s = .error h ↔
      indexReg m.idx = none ∧ h = s.setRun (.halted .invalidOpcodeOrVariant { pc := s.pc }) := by
  unfold effAddr
  split <;> rename_i h <;> simp [h, invalidInstr, raiseHalt, eq_comm]

theorem fieldOf_eq_ok {f : Byte} {s : State} {p : FieldSpec} : fieldOf f s = .ok p ↔ fieldSpec f = some p := by
  unfold fieldOf
  split <;> rename_i h <;> simp [h]

theorem fieldOf_eq_error {f : Byte} {s h : State} :
    fieldOf f s = .error h ↔ fieldSpec f = none ∧ h = s.setRun (.halted .invalidFieldSpec { pc := s.pc }) := by
  unfold fieldOf
  split <;> rename_i h <;> simp [h, raiseHalt, eq_comm]

theorem fieldOperand_eq_ok {m : Addr} {f : Byte} {s : State} {p : FieldSpec} {v : Word} :
    fieldOperand m f s = .ok (p, v) ↔
      ∃ ma, effAddr m s = .ok ma ∧ fieldSpec f = some p ∧ addrOk ma.val = true ∧
        extractField (s.wordAt ma.val.toNat) p = v := by
  simp only [fieldOperand, Phase.bind_eq_ok, fieldOf_eq_ok, memRead_eq_ok, Phase.pure_eq, Except.ok.injEq,
    Prod.mk.injEq]
  constructor
  · rintro ⟨ma, h1, p', h2, w, ⟨h3, rfl⟩, rfl, rfl⟩
    exact ⟨ma, h1, h2, h3, rfl⟩
  · rintro ⟨ma, h1, h2, h3, rfl⟩
    exact ⟨ma, h1, p, h2, _, ⟨h3, rfl⟩, rfl, rfl⟩

/-- A failing operand halts with one of three reasons, changes nothing else, and records the instruction's address. -/
theorem fieldOperand_eq_error {m : Addr} {f : Byte} {s h : State} (he : fieldOperand m f s = .error h) :
    ∃ reason addr, h = s.setRun (.halted reason { pc := s.pc, addr := addr }) := by
  simp only [fieldOperand, Phase.bind_eq_error, effAddr_eq_error, fieldOf_eq_error, memRead_eq_error, Phase.pure_eq,
    reduceCtorEq, and_false, exists_false, or_false] at he
  rcases he with ⟨-, rfl⟩ | ⟨ma, -, ⟨-, rfl⟩ | ⟨p, -, -, rfl⟩⟩ <;> exact ⟨_, _, rfl⟩

theorem shiftCount_eq_ok {ma : Word} {s : State} {n : Nat} :
    shiftCount ma s = .ok n ↔ (ma.mag = 0 ∨ ma.sign = .plus) ∧ ma.mag = n := by
  unfold shiftCount
  split
  · rename_i h; simp [h]
  · rename_i h
    cases hs : ma.sign <;> simp [h, invalidInstr]

theorem shiftCount_eq_error {ma : Word} {s h : State} :
    shiftCount ma s = .error h ↔
      (ma.mag ≠ 0 ∧ ma.sign = .minus) ∧ h = s.setRun (.halted .invalidOpcodeOrVariant { pc := s.pc }) := by
  unfold shiftCount
  split
  · rename_i h; simp [h]
  · rename_i h
    cases hs : ma.sign <;> simp [h, invalidInstr, raiseHalt, eq_comm]

theorem shiftBits_eq_ok {m : Addr} {s : State} {n : Nat} :
    shiftBits m s = .ok n ↔
      ∃ ma, effAddr m s = .ok ma ∧ (ma.mag = 0 ∨ ma.sign = .plus) ∧ ma.mag * s.params.shiftUnit.bits = n := by
  simp only [shiftBits, Phase.bind_eq_ok, shiftCount_eq_ok, Phase.pure_eq, Except.ok.injEq]
  constructor
  · rintro ⟨ma, h1, k, ⟨h2, rfl⟩, h3⟩; exact ⟨ma, h1, h2, h3⟩
  · rintro ⟨ma, h1, h2, h3⟩; exact ⟨ma, h1, _, ⟨h2, rfl⟩, h3⟩

theorem shiftBits_eq_error {m : Addr} {s h : State} (he : shiftBits m s = .error h) :
    h = s.setRun (.halted .invalidOpcodeOrVariant { pc := s.pc }) := by
  simp only [shiftBits, Phase.bind_eq_error, effAddr_eq_error, shiftCount_eq_error, Phase.pure_eq, reduceCtorEq,
    and_false, exists_false, or_false] at he
  rcases he with ⟨-, h⟩ | ⟨ma, -, -, h⟩ <;> exact h

theorem unitOf_eq_ok {ok : Bool} {f : Byte} {s : State} {u : Nat} :
    unitOf ok f s = .ok u ↔ ok = true ∧ f.toNat = u := by
  unfold unitOf; split <;> simp_all [invalidInstr]

theorem unitOf_eq_error {ok : Bool} {f : Byte} {s h : State} :
    unitOf ok f s = .error h ↔ ok = false ∧ h = s.setRun (.halted .invalidOpcodeOrVariant { pc := s.pc }) := by
  unfold unitOf; split <;> simp_all [invalidInstr, raiseHalt, eq_comm]

/-! ### The copying loop of MOVE -/

/-- MOVE's loop changes memory alone, and keeps its canonical form. -/
theorem copyWords_ok {n : Nat} {src dst : Int} {s t : State} (h : copyWords src dst n s = .ok t) :
    ∃ mem, t = s.setMem mem ∧ (Memory.wf s.mem = true → Memory.wf mem = true) := by
  induction n generalizing src dst s with
  | zero => simp only [copyWords, Except.ok.injEq] at h; subst h; exact ⟨_, rfl, id⟩
  | succ n ih =>
    simp only [copyWords, Phase.bind_eq_ok, memRead_eq_ok, memWrite_eq_ok] at h
    obtain ⟨w, -, t1, ⟨hd, rfl⟩, h⟩ := h
    obtain ⟨mem, rfl, hwf⟩ := ih h
    rw [addrOk_iff] at hd
    exact ⟨mem, rfl, fun hw => hwf (State.putWord_wf hw (by simp only [memWords]; omega) w)⟩

/-- MOVE's loop halts with `IllegalAddress`; only memory has changed by then. -/
theorem copyWords_error {n : Nat} {src dst : Int} {s h : State} (he : copyWords src dst n s = .error h) :
    ∃ mem a, h = (s.setMem mem).setRun (.halted .illegalAddress { pc := s.pc, addr := some a }) ∧
      (Memory.wf s.mem = true → Memory.wf mem = true) := by
  induction n generalizing src dst s with
  | zero => cases he
  | succ n ih =>
    simp only [copyWords, Phase.bind_eq_error, memRead_eq_ok, memRead_eq_error, memWrite_eq_ok,
      memWrite_eq_error] at he
    rcases he with ⟨-, rfl⟩ | ⟨w, -, ⟨-, rfl⟩ | ⟨t1, ⟨hd, rfl⟩, h⟩⟩
    · exact ⟨s.mem, _, rfl, id⟩
    · exact ⟨s.mem, _, rfl, id⟩
    · obtain ⟨mem, a, rfl, hwf⟩ := ih h
      rw [addrOk_iff] at hd
      exact ⟨mem, a, rfl, fun hw => hwf (State.putWord_wf hw (by simp only [memWords]; omega) w)⟩

end Sys2Proof.Machine
end

