-- ==== Sys2Proof/Laws/Device.lean ====
section
/-! SUPPORT. What the device operations can do: a transfer changes only memory, `lastError` on a failure, the host's side
and the run state; the timer update besides changes only timers. -/

namespace Sys2Proof.Machine

/-! ### coreKept -/

theorem coreKept_refl (s : State) : coreKept s s := ⟨fun _ _ => rfl, rfl, ⟨rfl, rfl⟩, rfl, rfl, rfl⟩

theorem coreKept_trans {s t u : State} (h : coreKept s t) (h' : coreKept t u) : coreKept s u :=
  ⟨fun r hr => (h'.1 r hr).trans (h.1 r hr), h'.2.1.trans h.2.1,
    ⟨h'.2.2.1.1.trans h.2.2.1.1, h'.2.2.1.2.trans h.2.2.1.2⟩, h'.2.2.2.1.trans h.2.2.2.1,
    h'.2.2.2.2.1.trans h.2.2.2.2.1,
    h'.2.2.2.2.2.trans h.2.2.2.2.2⟩

theorem coreKept_reg {s t : State} (h : coreKept s t) (r : Reg) : t.reg r = s.reg r := h.1 r (by simp)

theorem coreKept_setDev (s : State) (u : Nat) (d : DevRec) : coreKept s (s.setDev u d) :=
  ⟨fun r _ => by simp, rfl, ⟨rfl, rfl⟩, rfl, rfl, rfl⟩

theorem coreKept_setRun (s : State) (r : RunState) : coreKept s (s.setRun r) :=
  ⟨fun r _ => by simp, rfl, ⟨rfl, rfl⟩, rfl, rfl, rfl⟩

theorem coreKept_putWord (s : State) (a : Nat) (w : Word) : coreKept s (s.putWord a w) :=
  ⟨fun r _ => by simp, rfl, ⟨rfl, rfl⟩, rfl, rfl, rfl⟩

theorem coreKept_logRequest (s : State) (q : HostRequest) : coreKept s (s.logRequest q) :=
  ⟨fun r _ => by simp, rfl, ⟨rfl, rfl⟩, rfl, rfl, rfl⟩

theorem coreKept_writeBlock (ws : List Word) (s : State) (a : Nat) : coreKept s (writeBlock s a ws) := by
  induction ws generalizing s a with
  | nil => exact coreKept_refl s
  | cons w ws ih => exact coreKept_trans (coreKept_putWord s a w) (ih _ _)

@[simp] theorem writeBlock_devs (ws : List Word) (s : State) (a : Nat) : (writeBlock s a ws).devs = s.devs := by
  induction ws generalizing s a with
  | nil => rfl
  | cons w ws ih => simp [writeBlock, ih]

@[simp] theorem writeBlock_run (ws : List Word) (s : State) (a : Nat) : (writeBlock s a ws).run = s.run := by
  induction ws generalizing s a with
  | nil => rfl
  | cons w ws ih => simp [writeBlock, ih]

@[simp] theorem writeBlock_hostLog (ws : List Word) (s : State) (a : Nat) :
    (writeBlock s a ws).hostLog = s.hostLog := by
  induction ws generalizing s a with
  | nil => rfl
  | cons w ws ih => simp [writeBlock, ih]

/-! ### Requests and failures -/

theorem failUnit_eq_error {α : Type} {pc0 : Int} {u : Nat} {text : String} {s h : State} :
    (failUnit pc0 u text s : Phase α) = .error h ↔
      h = (s.setDev u { s.dev u with lastError := some text }).setRun
        (.halted .deviceError { pc := pc0, unit := some u, text := some text }) := by
  simp [failUnit, raiseHalt_eq_error]

@[simp] theorem failUnit_ne_ok {α : Type} (pc0 : Int) (u : Nat) (text : String) (s : State) (a : α) :
    (failUnit pc0 u text s : Phase α) = .ok a ↔ False := by
  simp [failUnit]

theorem askHost_eq_ok {pc0 : Int} {u : Nat} {q : HostRequest} {s t : State} :
    askHost pc0 u q s = .ok t ↔ hostErr s q = none ∧ s.logRequest q = t := by
  unfold askHost; split <;> simp_all

theorem askHost_eq_error {pc0 : Int} {u : Nat} {q : HostRequest} {s h : State} :
    askHost pc0 u q s = .error h ↔ ∃ text, hostErr s q = some text ∧
      h = ((s.logRequest q).setDev u { s.dev u with lastError := some text }).setRun
        (.halted .deviceError { pc := pc0, unit := some u, text := some text }) := by
  unfold askHost; split
  · rename_i text hq; simp [failUnit_eq_error, hq]
  · rename_i hq; simp [hq]

/-! ### Transfers -/

/-- A transfer that succeeds changes memory and the host's side alone: the device table and the run state stay. -/
theorem transfer_ok {pc0 : Int} {u : Nat} {s t : State} (h : transfer pc0 u s = .ok t) :
    coreKept s t ∧ t.devs = s.devs ∧ t.run = s.run ∧ (Memory.wf s.mem = true → Memory.wf t.mem = true) := by
  unfold transfer at h
  simp only at h
  split at h
  · rename_i hb
    simp only [blockOk, Bool.and_eq_true, decide_eq_true_eq, memWords] at hb
    have self : coreKept s s ∧ s.devs = s.devs ∧ s.run = s.run ∧ (Memory.wf s.mem = true → Memory.wf s.mem = true) :=
      ⟨coreKept_refl s, rfl, rfl, id⟩
    have block : ∀ (q : HostRequest) (ws : List Word), (s.dev u).addr.toNat + ws.length ≤ memWords →
        coreKept s (writeBlock (s.logRequest q) (s.dev u).addr.toNat ws) ∧
        (writeBlock (s.logRequest q) (s.dev u).addr.toNat ws).devs = s.devs ∧
        (writeBlock (s.logRequest q) (s.dev u).addr.toNat ws).run = s.run ∧
        (Memory.wf s.mem = true → Memory.wf (writeBlock (s.logRequest q) (s.dev u).addr.toNat ws).mem = true) :=
      fun q ws hl => ⟨coreKept_trans (coreKept_logRequest s q) (coreKept_writeBlock ws _ _), by simp, by simp,
        fun hw => writeBlock_wf ws (s := s.logRequest q) hw hl⟩
    split at h <;> rename_i hk ho
    · simp only [cardIn, Phase.bind_eq_ok, askHost_eq_ok, Phase.pure_eq, Except.ok.injEq] at h
      obtain ⟨t1, ⟨-, rfl⟩, rfl⟩ := h
      simp only [hk, DevKind.blockWords, cardBlockWords] at hb
      exact block _ _ (by simp only [List.length_map, List.length_range, cardBlockWords, memWords]; omega)
    · simp only [printerOut, askHost_eq_ok] at h
      obtain ⟨-, rfl⟩ := h
      exact ⟨coreKept_logRequest _ _, rfl, rfl, id⟩
    · simp only [tapeIn, Phase.bind_eq_ok, askHost_eq_ok, Phase.pure_eq, Except.ok.injEq] at h
      obtain ⟨t1, ⟨-, rfl⟩, rfl⟩ := h
      simp only [hk, DevKind.blockWords] at hb
      exact block _ _ (by simp only [List.length_map, List.length_range, memWords]; omega)
    · simp only [tapeOut, askHost_eq_ok] at h
      obtain ⟨-, rfl⟩ := h
      exact ⟨coreKept_logRequest _ _, rfl, rfl, id⟩
    all_goals cases h; exact self
  · simp at h

/-- A transfer that fails writes the unit's `lastError` and halts with `DeviceError`; memory stays. -/
theorem transfer_error {pc0 : Int} {u : Nat} {s h : State} (he : transfer pc0 u s = .error h) :
    ∃ text, coreKept s h ∧ h.mem = s.mem ∧ h.devs = s.devs.set u { s.dev u with lastError := some text } ∧
      h.run = .halted .deviceError { pc := pc0, unit := some u, text := some text } := by
  have ask : ∀ q, askHost pc0 u q s = .error h → ∃ text, coreKept s h ∧ h.mem = s.mem ∧
      h.devs = s.devs.set u { s.dev u with lastError := some text } ∧
      h.run = .halted .deviceError { pc := pc0, unit := some u, text := some text } := by
    intro q hq
    rw [askHost_eq_error] at hq
    obtain ⟨text, -, rfl⟩ := hq
    exact ⟨text, coreKept_trans (coreKept_logRequest s q) (coreKept_trans (coreKept_setDev _ _ _)
      (coreKept_setRun _ _)), rfl, rfl, rfl⟩
  unfold transfer at he
  simp only at he
  split at he
  · split at he
    · simp only [cardIn, Phase.bind_eq_error, Phase.pure_eq, reduceCtorEq, and_false, exists_false, or_false] at he
      exact ask _ he
    · exact ask _ he
    · simp only [tapeIn, Phase.bind_eq_error, Phase.pure_eq, reduceCtorEq, and_false, exists_false, or_false] at he
      exact ask _ he
    · exact ask _ he
    all_goals cases he
  · rw [failUnit_eq_error] at he
    subst he
    exact ⟨_, coreKept_trans (coreKept_setDev s u _) (coreKept_setRun _ _), rfl, rfl, rfl⟩

theorem forceWaiting_ok {pc0 : Int} {u : Nat} {s t : State} (h : forceWaiting pc0 u s = .ok t) :
    coreKept s t ∧ t.devs = s.devs ∧ t.run = s.run ∧ (Memory.wf s.mem = true → Memory.wf t.mem = true) := by
  unfold forceWaiting at h
  split at h
  · exact transfer_ok h
  · cases h; exact ⟨coreKept_refl s, rfl, rfl, id⟩

theorem forceWaiting_error {pc0 : Int} {u : Nat} {s h : State} (he : forceWaiting pc0 u s = .error h) :
    ∃ text, coreKept s h ∧ h.mem = s.mem ∧ h.devs = s.devs.set u { s.dev u with lastError := some text } ∧
      h.run = .halted .deviceError { pc := pc0, unit := some u, text := some text } := by
  unfold forceWaiting at he
  split at he
  · exact transfer_error he
  · cases he

/-! ### Lowering timers -/

theorem coreKept_lowerTimer (s : State) (u c : Nat) : coreKept s (s.lowerTimer u c) := coreKept_setDev s u _

@[simp] theorem State.lowerTimer_run (s : State) (u c : Nat) : (s.lowerTimer u c).run = s.run := rfl
@[simp] theorem State.lowerTimer_mem (s : State) (u c : Nat) : (s.lowerTimer u c).mem = s.mem := rfl
@[simp] theorem State.lowerTimer_params (s : State) (u c : Nat) : (s.lowerTimer u c).params = s.params := rfl
@[simp] theorem State.lowerTimer_hostIn (s : State) (u c : Nat) : (s.lowerTimer u c).hostIn = s.hostIn := rfl
@[simp] theorem State.lowerTimer_hostLog (s : State) (u c : Nat) : (s.lowerTimer u c).hostLog = s.hostLog := rfl
@[simp] theorem State.lowerTimer_length (s : State) (u c : Nat) : (s.lowerTimer u c).devs.length = s.devs.length :=
  State.setDev_length s u _

theorem State.lowerTimer_dev_self {s : State} {u : Nat} (c : Nat) (h : u < s.devs.length) :
    (s.lowerTimer u c).dev u = { s.dev u with timer := (s.dev u).timer - c } := State.setDev_dev_self s _ h

theorem State.lowerTimer_dev_of_ne {s : State} {u v : Nat} (c : Nat) (h : v ≠ u) :
    (s.lowerTimer u c).dev v = s.dev v := State.setDev_dev_of_ne s _ h

/-- A timer that stands at 0 is not lowered. -/
theorem State.lowerTimer_of_idle {s : State} {u : Nat} (c : Nat) (h : u < s.devs.length) (h0 : (s.dev u).timer = 0) :
    s.lowerTimer u c = s := by
  have hd : ({ s.dev u with timer := (s.dev u).timer - c } : DevRec) = s.dev u := by
    cases hr : s.dev u; simp only [hr] at h0; subst h0; simp
  have hs : s.devs.set u (s.dev u) = s.devs := by simp [State.dev, h]
  unfold State.lowerTimer
  rw [hd]
  unfold State.setDev
  rw [hs]

/-! ### The timer update -/

/-- A unit that crosses its threshold: its timer falls and its operation is transferred. -/
theorem updateUnit_of_crosses {pc0 : Int} {c u : Nat} {s : State} (h : crosses s u c) :
    updateUnit pc0 c u s = transfer pc0 u (s.lowerTimer u c) := by
  unfold updateUnit
  have h0 : (s.dev u).timer ≠ 0 := by unfold crosses at h; omega
  exact (if_neg h0).trans (if_pos h)

/-- A unit that does not cross its threshold: its timer falls, and that is all. -/
theorem updateUnit_of_not_crosses {pc0 : Int} {c u : Nat} {s : State} (hu : u < s.devs.length) (h : ¬ crosses s u c) :
    updateUnit pc0 c u s = .ok (s.lowerTimer u c) := by
  unfold updateUnit
  by_cases h0 : (s.dev u).timer = 0
  · rw [State.lowerTimer_of_idle c hu h0]; exact if_pos h0
  · exact (if_neg h0).trans (if_neg h)

theorem updateUnits_append {pc0 : Int} {c : Nat} {armed : Option Nat} (us vs : List Nat) (s : State) :
    updateUnits pc0 c armed (us ++ vs) s =
      updateUnits pc0 c armed us s >>= fun t => updateUnits pc0 c armed vs t := by
  induction us generalizing s with
  | nil => rfl
  | cons u us ih =>
    simp only [List.cons_append, updateUnits]
    cases unitTurn pc0 c armed u s with
    | error h => rfl
    | ok t => exact ih t

/-- One unit's turn that succeeds: its timer falls by the cost, nothing else of the device table changes. -/
theorem updateUnit_ok {pc0 : Int} {c u : Nat} {s t : State} (h : updateUnit pc0 c u s = .ok t) :
    coreKept s t ∧ t.run = s.run ∧ (Memory.wf s.mem = true → Memory.wf t.mem = true) ∧
      (t.devs = s.devs ∧ (s.dev u).timer = 0 ∨
        t.devs = s.devs.set u { s.dev u with timer := (s.dev u).timer - c }) := by
  unfold updateUnit at h
  simp only at h
  split at h
  · rename_i h0; cases h; exact ⟨coreKept_refl s, rfl, id, .inl ⟨rfl, h0⟩⟩
  · split at h
    · obtain ⟨h1, h2, h3, h4⟩ := transfer_ok h
      exact ⟨coreKept_trans (coreKept_setDev s u _) h1, h3, h4, .inr h2⟩
    · cases h
      exact ⟨coreKept_setDev s u _, rfl, id, .inr rfl⟩

/-- One unit's turn that fails: its timer has fallen, its `lastError` is written, and the step is halted. -/
theorem updateUnit_error {pc0 : Int} {c u : Nat} {s h : State} (he : updateUnit pc0 c u s = .error h) :
    ∃ text, coreKept s h ∧ h.mem = s.mem ∧
      h.devs = (s.devs.set u { s.dev u with timer := (s.dev u).timer - c }).set u
        { (s.setDev u { s.dev u with timer := (s.dev u).timer - c }).dev u with lastError := some text } ∧
      h.run = .halted .deviceError { pc := pc0, unit := some u, text := some text } := by
  unfold updateUnit at he
  simp only at he
  split at he
  · cases he
  · split at he
    · obtain ⟨text, h1, h2, h3, h4⟩ := transfer_error he
      exact ⟨text, coreKept_trans (coreKept_setDev s u _) h1, h2, h3, h4⟩
    · cases he

theorem updateUnits_ok {pc0 : Int} {c : Nat} {armed : Option Nat} (us : List Nat) {s t : State}
    (h : updateUnits pc0 c armed us s = .ok t) :
    coreKept s t ∧ t.run = s.run ∧ (Memory.wf s.mem = true → Memory.wf t.mem = true) ∧
      t.devs.length = s.devs.length := by
  induction us generalizing s with
  | nil => simp only [updateUnits, Except.ok.injEq] at h; subst h; exact ⟨coreKept_refl _, rfl, id, rfl⟩
  | cons u us ih =>
    simp only [updateUnits, Phase.bind_eq_ok] at h
    obtain ⟨t1, h1, h2⟩ := h
    obtain ⟨k1, k2, k3, k4⟩ := ih h2
    unfold unitTurn at h1
    split at h1
    · cases h1; exact ⟨k1, k2, k3, k4⟩
    · obtain ⟨j1, j2, j3, j4⟩ := updateUnit_ok h1
      refine ⟨coreKept_trans j1 k1, k2.trans j2, fun hw => k3 (j3 hw), k4.trans ?_⟩
      rcases j4 with ⟨j4, -⟩ | j4 <;> simp [j4]

theorem updateUnits_error {pc0 : Int} {c : Nat} {armed : Option Nat} (us : List Nat) {s h : State}
    (he : updateUnits pc0 c armed us s = .error h) :
    coreKept s h ∧ (Memory.wf s.mem = true → Memory.wf h.mem = true) ∧ h.devs.length = s.devs.length ∧
      ∃ u text, h.run = .halted .deviceError { pc := pc0, unit := some u, text := some text } := by
  induction us generalizing s with
  | nil => cases he
  | cons u us ih =>
    simp only [updateUnits, Phase.bind_eq_error] at he
    rcases he with h1 | ⟨t1, h1, h2⟩
    · unfold unitTurn at h1
      split at h1
      · cases h1
      · obtain ⟨text, j1, j2, j3, j4⟩ := updateUnit_error h1
        exact ⟨j1, fun hw => j2 ▸ hw, by simp [j3], u, text, j4⟩
    · obtain ⟨k1, k2, k3, k4⟩ := ih h2
      unfold unitTurn at h1
      split at h1
      · cases h1; exact ⟨k1, k2, k3, k4⟩
      · obtain ⟨j1, j2, j3, j4⟩ := updateUnit_ok h1
        refine ⟨coreKept_trans j1 k1, fun hw => k2 (j3 hw), k3.trans ?_, k4⟩
        rcases j4 with ⟨j4, -⟩ | j4 <;> simp [j4]

end Sys2Proof.Machine
end

