-- ==== Sys2Proof/Laws/Family.lean ====
section
/-! SUPPORT. For each shared meaning, what it answers once its operands are read, and that it halts as they halt. -/

namespace Sys2Proof.Machine

variable {m : Addr} {f : Byte} {s h : State} {ma v : Word} {p : FieldSpec} {r : Reg}

/-! ### Loads, stores, arithmetic, compares -/

theorem loadReg_ok (hv : fieldOperand m f s = .ok (p, v)) : loadReg r m f s = .ok (s.setReg r v).seq := by
  simp [loadReg, hv]

theorem loadReg_error (hv : fieldOperand m f s = .error h) : loadReg r m f s = .error h := by
  simp [loadReg, hv]

theorem loadNegReg_ok (hv : fieldOperand m f s = .ok (p, v)) :
    loadNegReg r m f s = .ok (s.setReg r (negate v)).seq := by
  simp [loadNegReg, hv]

theorem loadNegReg_error (hv : fieldOperand m f s = .error h) : loadNegReg r m f s = .error h := by
  simp [loadNegReg, hv]

theorem storeWord_ok (hm : effAddr m s = .ok ma) (hf : fieldSpec f = some p) (ha : addrOk ma.val = true) :
    storeWord v m f s =
      .ok (s.putWord ma.val.toNat (insertField (s.wordAt ma.val.toNat) v p)).seq := by
  simp [storeWord, hm, fieldOf, hf, memRead, memWrite, ha]

/-- A store that fails halts as its operand does. -/
theorem storeWord_error (hv : fieldOperand m f s = .error h) : storeWord v m f s = .error h := by
  revert hv
  unfold fieldOperand storeWord
  cases effAddr m s <;> simp
  cases fieldOf f s <;> simp
  rename_i w p
  cases memRead w.val s <;> simp

theorem addToA_ok (hv : fieldOperand m f s = .ok (p, v)) :
    addToA m f s = .ok ((s.setReg .A (smAdd s.a v).1).raiseOvf (smAdd s.a v).2).seq := by
  simp [addToA, hv]

theorem addToA_error (hv : fieldOperand m f s = .error h) : addToA m f s = .error h := by
  simp [addToA, hv]

theorem subFromA_ok (hv : fieldOperand m f s = .ok (p, v)) :
    subFromA m f s = .ok ((s.setReg .A (smSub s.a v).1).raiseOvf (smSub s.a v).2).seq := by
  simp [subFromA, hv]

theorem subFromA_error (hv : fieldOperand m f s = .error h) : subFromA m f s = .error h := by
  simp [subFromA, hv]

theorem multiplyA_ok (hv : fieldOperand m f s = .ok (p, v)) :
    multiplyA m f s = .ok ((s.setReg .A (smMul s.a v).1).setReg .X (smMul s.a v).2).seq := by
  simp [multiplyA, hv]

theorem multiplyA_error (hv : fieldOperand m f s = .error h) : multiplyA m f s = .error h := by
  simp [multiplyA, hv]

theorem divideAX_ok {rule : RemSign} {d : Word × Word} (hv : fieldOperand m f s = .ok (p, v))
    (hd : smDiv rule s.a s.x v = some d) :
    divideAX rule m f s = .ok ((s.setReg .A d.1).setReg .X d.2).seq := by
  simp [divideAX, hv, hd, endDivision]

theorem divideAX_fail {rule : RemSign} (hv : fieldOperand m f s = .ok (p, v)) (hd : smDiv rule s.a s.x v = none) :
    divideAX rule m f s = raiseHalt .divisionFailure { pc := s.pc } (s.setOvf true) := by
  simp [divideAX, hv, hd, endDivision]

theorem divideAX_error {rule : RemSign} (hv : fieldOperand m f s = .error h) : divideAX rule m f s = .error h := by
  simp [divideAX, hv]

theorem compareReg_ok (hv : fieldOperand m f s = .ok (p, v)) :
    compareReg r m f s = .ok (s.setCi (compareWords (extractField (s.reg r) p) v)).seq := by
  simp [compareReg, hv]

theorem compareReg_error (hv : fieldOperand m f s = .error h) : compareReg r m f s = .error h := by
  simp [compareReg, hv]

/-! ### Conversion and no operation -/

theorem numToA_ok (hm : effAddr m s = .ok ma) :
    numToA m s = .ok ((s.setReg .A (Word.ofMag s.a.sign (wordToDecimal s.a s.x % magLimit))).raiseOvf
      (decide (magLimit ≤ wordToDecimal s.a s.x))).seq := by
  simp only [numToA, hm, Phase.ok_bind, Phase.pure_eq]

theorem charFromA_ok (hm : effAddr m s = .ok ma) :
    charFromA m s = .ok ((s.setReg .A (decimalToChars s.a.sign s.x.sign s.a.mag).1).setReg .X
      (decimalToChars s.a.sign s.x.sign s.a.mag).2).seq := by
  simp only [charFromA, hm, Phase.ok_bind, Phase.pure_eq]

theorem haltInstr_ok (hm : effAddr m s = .ok ma) : haltInstr m s = .ok s.seq := by
  simp [haltInstr, hm]

theorem noOperation_ok (hm : effAddr m s = .ok ma) : noOperation m s = .ok s.seq := by
  simp [noOperation, hm]

theorem numToA_error (hm : effAddr m s = .error h) : numToA m s = .error h := by simp [numToA, hm]
theorem charFromA_error (hm : effAddr m s = .error h) : charFromA m s = .error h := by simp [charFromA, hm]
theorem haltInstr_error (hm : effAddr m s = .error h) : haltInstr m s = .error h := by simp [haltInstr, hm]
theorem noOperation_error (hm : effAddr m s = .error h) : noOperation m s = .error h := by simp [noOperation, hm]

/-! ### Shifts and MOVE -/

theorem shiftA_ok {sh : Word → Nat → Word} {n : Nat} (hn : shiftBits m s = .ok n) :
    shiftA sh m s = .ok (s.setReg .A (sh s.a n)).seq := by
  simp [shiftA, hn]

theorem shiftA_error {sh : Word → Nat → Word} (hn : shiftBits m s = .error h) : shiftA sh m s = .error h := by
  simp [shiftA, hn]

theorem shiftAX_ok {sh : Word → Word → Nat → Word × Word} {n : Nat} (hn : shiftBits m s = .ok n) :
    shiftAX sh m s = .ok ((s.setReg .A (sh s.a s.x n).1).setReg .X (sh s.a s.x n).2).seq := by
  simp [shiftAX, hn]

theorem shiftAX_error {sh : Word → Word → Nat → Word × Word} (hn : shiftBits m s = .error h) :
    shiftAX sh m s = .error h := by
  simp [shiftAX, hn]

theorem moveBlock_ok {t : State} (hm : effAddr m s = .ok ma) (hc : copyWords ma.val s.i1.val f.toNat s = .ok t) :
    moveBlock m f s = .ok (t.setReg .I1 (smAdd s.i1 (Word.ofMag .plus f.toNat)).1).seq := by
  simp [moveBlock, hm, hc]

theorem moveBlock_error (hm : effAddr m s = .ok ma) (hc : copyWords ma.val s.i1.val f.toNat s = .error h) :
    moveBlock m f s = .error h := by
  simp [moveBlock, hm, hc]

theorem moveBlock_error_addr (hm : effAddr m s = .error h) : moveBlock m f s = .error h := by
  simp [moveBlock, hm]

/-! ### Jumps and address transfer -/

theorem jumpAlways_ok (hm : effAddr m s = .ok ma) : jumpAlways m s = .ok (s.takeJump ma.val) := by
  simp [jumpAlways, hm]

theorem jumpSaveJ_ok (hm : effAddr m s = .ok ma) : jumpSaveJ m s = .ok (s.jumpTo ma.val) := by
  simp [jumpSaveJ, hm]

theorem jumpOverflow_ok (hm : effAddr m s = .ok ma) :
    jumpOverflow m s = .ok (if s.ovf then (s.setOvf false).takeJump ma.val else s.seq) := by
  simp [jumpOverflow, hm]

theorem jumpNoOverflow_ok (hm : effAddr m s = .ok ma) :
    jumpNoOverflow m s = .ok (if s.ovf then (s.setOvf false).seq else s.takeJump ma.val) := by
  simp [jumpNoOverflow, hm]

theorem jumpCi_ok {t : CiTest} (hm : effAddr m s = .ok ma) :
    jumpCi t m s = .ok (if t.holds s.ci then s.takeJump ma.val else s.seq) := by
  simp [jumpCi, hm]

theorem jumpReg_ok {t : RegTest} (hm : effAddr m s = .ok ma) :
    jumpReg r t m s = .ok (if t.holds (s.reg r) then s.takeJump ma.val else s.seq) := by
  simp [jumpReg, hm]

theorem incReg_ok (hm : effAddr m s = .ok ma) :
    incReg r m s = .ok ((s.setReg r (smAdd (s.reg r) ma).1).raiseOvf (smAdd (s.reg r) ma).2).seq := by
  simp [incReg, hm]

theorem decReg_ok (hm : effAddr m s = .ok ma) :
    decReg r m s = .ok ((s.setReg r (smSub (s.reg r) ma).1).raiseOvf (smSub (s.reg r) ma).2).seq := by
  simp [decReg, hm]

theorem entReg_ok (hm : effAddr m s = .ok ma) : entReg r m s = .ok (s.setReg r ma).seq := by
  simp [entReg, hm]

theorem ennReg_ok (hm : effAddr m s = .ok ma) : ennReg r m s = .ok (s.setReg r (negate ma)).seq := by
  simp [ennReg, hm]

theorem jumpAlways_error (hm : effAddr m s = .error h) : jumpAlways m s = .error h := by simp [jumpAlways, hm]
theorem jumpSaveJ_error (hm : effAddr m s = .error h) : jumpSaveJ m s = .error h := by simp [jumpSaveJ, hm]
theorem jumpOverflow_error (hm : effAddr m s = .error h) : jumpOverflow m s = .error h := by simp [jumpOverflow, hm]
theorem jumpNoOverflow_error (hm : effAddr m s = .error h) : jumpNoOverflow m s = .error h := by
  simp [jumpNoOverflow, hm]
theorem jumpCi_error {t : CiTest} (hm : effAddr m s = .error h) : jumpCi t m s = .error h := by simp [jumpCi, hm]
theorem jumpReg_error {t : RegTest} (hm : effAddr m s = .error h) : jumpReg r t m s = .error h := by
  simp [jumpReg, hm]
theorem incReg_error (hm : effAddr m s = .error h) : incReg r m s = .error h := by simp [incReg, hm]
theorem decReg_error (hm : effAddr m s = .error h) : decReg r m s = .error h := by simp [decReg, hm]
theorem entReg_error (hm : effAddr m s = .error h) : entReg r m s = .error h := by simp [entReg, hm]
theorem ennReg_error (hm : effAddr m s = .error h) : ennReg r m s = .error h := by simp [ennReg, hm]

/-! ### Input and output -/

theorem jumpBusy_ok (hm : effAddr m s = .ok ma) (hu : unitExists f = true) :
    jumpBusy m f s = .ok (if (s.dev f.toNat).busy then s.takeJump ma.val else s.seq) := by
  simp [jumpBusy, hm, unitOf, hu]

theorem jumpReady_ok (hm : effAddr m s = .ok ma) (hu : unitExists f = true) :
    jumpReady m f s = .ok (if (s.dev f.toNat).busy then s.seq else s.takeJump ma.val) := by
  simp [jumpReady, hm, unitOf, hu]

theorem startIo_ok {op : IoOp} {t : State} (hm : effAddr m s = .ok ma) (hu : unitTransfers op f = true)
    (hw : forceWaiting s.pc f.toNat s = .ok t) :
    startIo op m f s = .ok (t.setDev f.toNat
      { t.dev f.toNat with addr := ma.val, field := f, op := op, total := devTime f.toNat,
                           timer := devTime f.toNat }).seq := by
  simp [startIo, hm, unitOf, hu, arm, hw]

theorem startIo_error {op : IoOp} (hm : effAddr m s = .ok ma) (hu : unitTransfers op f = true)
    (hw : forceWaiting s.pc f.toNat s = .error h) : startIo op m f s = .error h := by
  simp [startIo, hm, unitOf, hu, arm, hw]

theorem controlUnit_ok {t : State} (hm : effAddr m s = .ok ma) (hu : unitControls f = true)
    (hw : forceWaiting s.pc f.toNat s = .ok t) :
    controlUnit m f s =
      (askHost s.pc f.toNat (.hostControl f.toNat ma)
        (t.setDev f.toNat { t.dev f.toNat with timer := 0 }) >>= fun t' => .ok t'.seq) := by
  simp only [controlUnit, hm, unitOf, hu, hw, Phase.ok_bind, Phase.pure_eq, if_true]

theorem controlUnit_error (hm : effAddr m s = .ok ma) (hu : unitControls f = true)
    (hw : forceWaiting s.pc f.toNat s = .error h) : controlUnit m f s = .error h := by
  simp [controlUnit, hm, unitOf, hu, hw]

end Sys2Proof.Machine
end

