-- ==== Sys2Proof/Laws/Shape.lean ====
section
/-! SUPPORT. The 144 instructions sorted by the shared operation that is their meaning, so that a proof over all
instructions has one case for an operation, not one for an instruction. -/

namespace Sys2Proof.Machine

/-- The shared operation of an instruction, with what it takes besides the address part. -/
inductive Shape where
  | load (r : Reg) (f : Byte)
  | loadNeg (r : Reg) (f : Byte)
  | store (v : State → Word) (f : Byte)
  | add (f : Byte)
  | sub (f : Byte)
  | mul (f : Byte)
  | div (f : Byte)
  | num
  | char
  | hlt
  | nop
  | shiftA (sh : Word → Nat → Word)
  | shiftAX (sh : Word → Word → Nat → Word × Word)
  | move (f : Byte)
  | compare (r : Reg) (f : Byte)
  | jump
  | jumpSave
  | jumpOv
  | jumpNov
  | jumpCi (t : CiTest)
  | jumpReg (r : Reg) (t : RegTest)
  | inc (r : Reg)
  | dec (r : Reg)
  | ent (r : Reg)
  | enn (r : Reg)
  | jumpBusy (f : Byte)
  | jumpReady (f : Byte)
  | startIo (op : IoOp) (f : Byte)
  | control (f : Byte)

/-- The meaning of a shape. -/
def Shape.run (m : Addr) (s : State) : Shape → Phase State
  | .load r f => loadReg r m f s
  | .loadNeg r f => loadNegReg r m f s
  | .store v f => storeWord (v s) m f s
  | .add f => addToA m f s
  | .sub f => subFromA m f s
  | .mul f => multiplyA m f s
  | .div f => divideAX s.params.divRemSign m f s
  | .num => numToA m s
  | .char => charFromA m s
  | .hlt => haltInstr m s
  | .nop => noOperation m s
  | .shiftA sh => Sys2Proof.Machine.shiftA sh m s
  | .shiftAX sh => Sys2Proof.Machine.shiftAX sh m s
  | .move f => moveBlock m f s
  | .compare r f => compareReg r m f s
  | .jump => jumpAlways m s
  | .jumpSave => jumpSaveJ m s
  | .jumpOv => jumpOverflow m s
  | .jumpNov => jumpNoOverflow m s
  | .jumpCi t => Sys2Proof.Machine.jumpCi t m s
  | .jumpReg r t => Sys2Proof.Machine.jumpReg r t m s
  | .inc r => incReg r m s
  | .dec r => decReg r m s
  | .ent r => entReg r m s
  | .enn r => ennReg r m s
  | .jumpBusy f => Sys2Proof.Machine.jumpBusy m f s
  | .jumpReady f => Sys2Proof.Machine.jumpReady m f s
  | .startIo op f => Sys2Proof.Machine.startIo op m f s
  | .control f => controlUnit m f s

/-- The place of a register in a block of eight opcodes: A, I1..I6, X; J has none (30_encoding.md R110). -/
def regIndex : Reg → Nat
  | .A => 0
  | .I1 => 1
  | .I2 => 2
  | .I3 => 3
  | .I4 => 4
  | .I5 => 5
  | .I6 => 6
  | .X => 7
  | .J => 100

/-- The C and F bytes of the instructions of a shape (30_encoding.md R108, R109). -/
def Shape.hasBytes (c v : Nat) : Shape → Prop
  | .load r _ => c = 8 + regIndex r
  | .loadNeg r _ => c = 16 + regIndex r
  | .store _ _ => 24 ≤ c ∧ c ≤ 33
  | .add _ => c = 1
  | .sub _ => c = 2
  | .mul _ => c = 3
  | .div _ => c = 4
  | .num => c = 5 ∧ v = 0
  | .char => c = 5 ∧ v = 1
  | .hlt => c = 5 ∧ v = 2
  | .nop => c = 0
  | .shiftA _ => c = 6 ∧ v ≤ 1
  | .shiftAX _ => c = 6 ∧ 2 ≤ v
  | .move _ => c = 7
  | .compare _ _ => 56 ≤ c
  | .jump => c = 39 ∧ v = 0
  | .jumpSave => c = 39 ∧ v = 1
  | .jumpOv => c = 39 ∧ v = 2
  | .jumpNov => c = 39 ∧ v = 3
  | .jumpCi _ => c = 39 ∧ 4 ≤ v
  | .jumpReg _ _ => 40 ≤ c ∧ c ≤ 47
  | .inc r => c = 48 + regIndex r ∧ v = 0
  | .dec r => c = 48 + regIndex r ∧ v = 1
  | .ent r => c = 48 + regIndex r ∧ v = 2
  | .enn r => c = 48 + regIndex r ∧ v = 3
  | .jumpBusy _ => c = 34
  | .jumpReady _ => c = 38
  | .startIo _ _ => 36 ≤ c ∧ c ≤ 37
  | .control _ => c = 35

/-- The shape of an instruction. -/
def Instr.shape : Instr → Shape
  | .nop _ _ => .nop
  | .add _ f => .add f
  | .sub _ f => .sub f
  | .mul _ f => .mul f
  | .div _ f => .div f
  | .num _ => .num
  | .char _ => .char
  | .hlt _ => .hlt
  | .sla _ => .shiftA shl1
  | .sra _ => .shiftA shr1
  | .slax _ => .shiftAX shl2
  | .srax _ => .shiftAX shr2
  | .slc _ => .shiftAX rotl2
  | .src _ => .shiftAX rotr2
  | .move _ f => .move f
  | .lda _ f => .load .A f
  | .ld1 _ f => .load .I1 f
  | .ld2 _ f => .load .I2 f
  | .ld3 _ f => .load .I3 f
  | .ld4 _ f => .load .I4 f
  | .ld5 _ f => .load .I5 f
  | .ld6 _ f => .load .I6 f
  | .ldx _ f => .load .X f
  | .ldan _ f => .loadNeg .A f
  | .ld1n _ f => .loadNeg .I1 f
  | .ld2n _ f => .loadNeg .I2 f
  | .ld3n _ f => .loadNeg .I3 f
  | .ld4n _ f => .loadNeg .I4 f
  | .ld5n _ f => .loadNeg .I5 f
  | .ld6n _ f => .loadNeg .I6 f
  | .ldxn _ f => .loadNeg .X f
  | .sta _ f => .store (fun s => s.reg .A) f
  | .st1 _ f => .store (fun s => s.reg .I1) f
  | .st2 _ f => .store (fun s => s.reg .I2) f
  | .st3 _ f => .store (fun s => s.reg .I3) f
  | .st4 _ f => .store (fun s => s.reg .I4) f
  | .st5 _ f => .store (fun s => s.reg .I5) f
  | .st6 _ f => .store (fun s => s.reg .I6) f
  | .stx _ f => .store (fun s => s.reg .X) f
  | .stj _ f => .store (fun s => s.reg .J) f
  | .stz _ f => .store (fun _ => Word.plusZero) f
  | .jbus _ f => .jumpBusy f
  | .ioc _ f => .control f
  | .inp _ f => .startIo .input f
  | .out _ f => .startIo .output f
  | .jred _ f => .jumpReady f
  | .jmp _ => .jump
  | .jsj _ => .jumpSave
  | .jov _ => .jumpOv
  | .jnov _ => .jumpNov
  | .jl _ => .jumpCi .less
  | .je _ => .jumpCi .equal
  | .jg _ => .jumpCi .greater
  | .jge _ => .jumpCi .greaterEqual
  | .jne _ => .jumpCi .notEqual
  | .jle _ => .jumpCi .lessEqual
  | .jan _ => .jumpReg .A .neg
  | .jaz _ => .jumpReg .A .zero
  | .jap _ => .jumpReg .A .pos
  | .jann _ => .jumpReg .A .nonNeg
  | .janz _ => .jumpReg .A .nonZero
  | .janp _ => .jumpReg .A .nonPos
  | .j1n _ => .jumpReg .I1 .neg
  | .j1z _ => .jumpReg .I1 .zero
  | .j1p _ => .jumpReg .I1 .pos
  | .j1nn _ => .jumpReg .I1 .nonNeg
  | .j1nz _ => .jumpReg .I1 .nonZero
  | .j1np _ => .jumpReg .I1 .nonPos
  | .j2n _ => .jumpReg .I2 .neg
  | .j2z _ => .jumpReg .I2 .zero
  | .j2p _ => .jumpReg .I2 .pos
  | .j2nn _ => .jumpReg .I2 .nonNeg
  | .j2nz _ => .jumpReg .I2 .nonZero
  | .j2np _ => .jumpReg .I2 .nonPos
  | .j3n _ => .jumpReg .I3 .neg
  | .j3z _ => .jumpReg .I3 .zero
  | .j3p _ => .jumpReg .I3 .pos
  | .j3nn _ => .jumpReg .I3 .nonNeg
  | .j3nz _ => .jumpReg .I3 .nonZero
  | .j3np _ => .jumpReg .I3 .nonPos
  | .j4n _ => .jumpReg .I4 .neg
  | .j4z _ => .jumpReg .I4 .zero
  | .j4p _ => .jumpReg .I4 .pos
  | .j4nn _ => .jumpReg .I4 .nonNeg
  | .j4nz _ => .jumpReg .I4 .nonZero
  | .j4np _ => .jumpReg .I4 .nonPos
  | .j5n _ => .jumpReg .I5 .neg
  | .j5z _ => .jumpReg .I5 .zero
  | .j5p _ => .jumpReg .I5 .pos
  | .j5nn _ => .jumpReg .I5 .nonNeg
  | .j5nz _ => .jumpReg .I5 .nonZero
  | .j5np _ => .jumpReg .I5 .nonPos
  | .j6n _ => .jumpReg .I6 .neg
  | .j6z _ => .jumpReg .I6 .zero
  | .j6p _ => .jumpReg .I6 .pos
  | .j6nn _ => .jumpReg .I6 .nonNeg
  | .j6nz _ => .jumpReg .I6 .nonZero
  | .j6np _ => .jumpReg .I6 .nonPos
  | .jxn _ => .jumpReg .X .neg
  | .jxz _ => .jumpReg .X .zero
  | .jxp _ => .jumpReg .X .pos
  | .jxnn _ => .jumpReg .X .nonNeg
  | .jxnz _ => .jumpReg .X .nonZero
  | .jxnp _ => .jumpReg .X .nonPos
  | .inca _ => .inc .A
  | .deca _ => .dec .A
  | .enta _ => .ent .A
  | .enna _ => .enn .A
  | .inc1 _ => .inc .I1
  | .dec1 _ => .dec .I1
  | .ent1 _ => .ent .I1
  | .enn1 _ => .enn .I1
  | .inc2 _ => .inc .I2
  | .dec2 _ => .dec .I2
  | .ent2 _ => .ent .I2
  | .enn2 _ => .enn .I2
  | .inc3 _ => .inc .I3
  | .dec3 _ => .dec .I3
  | .ent3 _ => .ent .I3
  | .enn3 _ => .enn .I3
  | .inc4 _ => .inc .I4
  | .dec4 _ => .dec .I4
  | .ent4 _ => .ent .I4
  | .enn4 _ => .enn .I4
  | .inc5 _ => .inc .I5
  | .dec5 _ => .dec .I5
  | .ent5 _ => .ent .I5
  | .enn5 _ => .enn .I5
  | .inc6 _ => .inc .I6
  | .dec6 _ => .dec .I6
  | .ent6 _ => .ent .I6
  | .enn6 _ => .enn .I6
  | .incx _ => .inc .X
  | .decx _ => .dec .X
  | .entx _ => .ent .X
  | .ennx _ => .enn .X
  | .cmpa _ f => .compare .A f
  | .cmp1 _ f => .compare .I1 f
  | .cmp2 _ f => .compare .I2 f
  | .cmp3 _ f => .compare .I3 f
  | .cmp4 _ f => .compare .I4 f
  | .cmp5 _ f => .compare .I5 f
  | .cmp6 _ f => .compare .I6 f
  | .cmpx _ f => .compare .X f

theorem exec_eq_shape (i : Instr) (s : State) : exec i s = outcome ((Instr.shape i).run i.addr s) := by
  cases i <;> rfl

theorem shape_hasBytes (i : Instr) : (Instr.shape i).hasBytes (opByte i) (fByte i) := by
  cases i <;> simp [Instr.shape, Shape.hasBytes, regIndex, opByte, fByte, encode, wordOfParts, Instr.parts]

end Sys2Proof.Machine
end

