-- ==== Sys2Proof/Laws/Exec.lean ====
section
/-! SUPPORT. Everything an instruction can do, said once for all 144: `ExecHalts` when it halts, `ExecEnds` when it
completes. The proofs over all instructions cite `exec_ends_or_halts` and split no instruction. -/

namespace Sys2Proof.Machine

/-- `h` is `s` halted with `IllegalAddress` at the integer `n`, which no address is. -/
def HaltsAt (s h : State) (n : Int) : Prop :=
  (n < 0 ∨ 4000 ≤ n) ∧ h = s.setRun (.halted .illegalAddress { pc := s.pc, addr := some n })

theorem addrOk_false {n} (h : addrOk n = false) : n < 0 ∨ 4000 ≤ n := by
  rw [← Bool.not_eq_true, addrOk_iff] at h; omega

theorem fieldOperand_halts {m f} {s h : State} (he : fieldOperand m f s = .error h) :
    h = s.haltedFor .invalidFieldSpec ∨ h = s.haltedFor .invalidOpcodeOrVariant ∨ ∃ n, HaltsAt s h n := by
  simp only [fieldOperand, Phase.bind_eq_error, effAddr_eq_error, fieldOf_eq_error, memRead_eq_error, Phase.pure_eq,
    reduceCtorEq, and_false, exists_false, or_false] at he
  rcases he with ⟨-, rfl⟩ | ⟨ma, -, ⟨-, rfl⟩ | ⟨p, -, h1, rfl⟩⟩
  · right; left; rfl
  · left; rfl
  · right; right; exact ⟨_, addrOk_false h1, rfl⟩

/-- What an instruction with C byte `c` leaves when it halts in phase EXECUTE. -/
def ExecHalts (c : Nat) (s h : State) : Prop :=
  h = s.haltedFor .invalidFieldSpec ∨ h = s.haltedFor .invalidOpcodeOrVariant ∨ (∃ n, HaltsAt s h n) ∨
  (c = 7 ∧ ∃ mem n, (Memory.wf s.mem = true → Memory.wf mem = true) ∧ HaltsAt (s.setMem mem) h n) ∨
  (c = 4 ∧ h = (s.setOvf true).haltedFor .divisionFailure) ∨
  (35 ≤ c ∧ c ≤ 37 ∧ ∃ u text, u ≤ 20 ∧ coreKept s h ∧ (Memory.wf s.mem = true → Memory.wf h.mem = true) ∧
    h.run = .halted .deviceError { pc := s.pc, unit := some u, text := some text } ∧
    ((s.devs.length = 21 →
        h.dev u = { s.dev u with timer := (h.dev u).timer, lastError := some text } ∧
        ((h.dev u).timer = (s.dev u).timer ∨ (h.dev u).timer = 0)) ∧
      (∀ v, v ≠ u → h.dev v = s.dev v)) ∧
    h.devs.length = s.devs.length)

theorem effAddr_halts {m} {s h : State} (he : effAddr m s = .error h) : h = s.haltedFor .invalidOpcodeOrVariant :=
    (effAddr_eq_error.1 he).2

theorem transfer_halts {pc0 u} {s h : State} (he : transfer pc0 u s = .error h) :
    ∃ text, coreKept s h ∧ h.mem = s.mem ∧
      h.run = .halted .deviceError { pc := pc0, unit := some u, text := some text } ∧
      (u < s.devs.length → h.dev u = { s.dev u with lastError := some text }) ∧
      (∀ v, v ≠ u → h.dev v = s.dev v) ∧ h.devs.length = s.devs.length := by
  obtain ⟨text, h1, h2, h3, h4⟩ := transfer_error he
  refine ⟨text, h1, h2, h4, fun hu => ?_, fun v hv => ?_, by simp [h3]⟩
  · exact (State.dev_congr (s := s.setDev u _) h3 u).trans (State.setDev_dev_self _ _ hu)
  · exact (State.dev_congr (s := s.setDev u _) h3 v).trans (State.setDev_dev_of_ne _ _ hv)

theorem transfer_of_forceWaiting {pc0 u} {s h : State} (he : forceWaiting pc0 u s = .error h) :
    transfer pc0 u s = .error h := by
  unfold forceWaiting at he; split at he
  · exact he
  · cases he

theorem unitTransfers_le {op f} (h : unitTransfers op f = true) :
    f.toNat ≤ 20 ∧ (unitKind f.toNat).allows op = true := by
  simp [unitTransfers, unitExists, numDevices] at h; exact ⟨by omega, h.2⟩
theorem unitControls_le {f} (h : unitControls f = true) : f.toNat ≤ 20 := by
  simp [unitControls, unitExists, numDevices] at h; omega

theorem shape_halts (c f : Nat) (m : Addr) (s h : State) (sh : Shape) (hb : sh.hasBytes c f)
    (he : sh.run m s = .error h) : ExecHalts c s h := by
  have fo : ∀ g, fieldOperand m g s = .error h → ExecHalts c s h := by
    intro g hg
    rcases fieldOperand_halts hg with r | r | r
    · exact .inl r
    · exact .inr (.inl r)
    · exact .inr (.inr (.inl r))
  have ef : effAddr m s = .error h → ExecHalts c s h := fun r => .inr (.inl (effAddr_halts r))
  cases sh <;> simp only [Shape.run] at he
  case load r g => exact fo g (by simpa [loadReg, Phase.bind_eq_error] using he)
  case loadNeg r g => exact fo g (by simpa [loadNegReg, Phase.bind_eq_error] using he)
  case add g => exact fo g (by simpa [addToA, Phase.bind_eq_error] using he)
  case sub g => exact fo g (by simpa [subFromA, Phase.bind_eq_error] using he)
  case mul g => exact fo g (by simpa [multiplyA, Phase.bind_eq_error] using he)
  case compare r g => exact fo g (by simpa [compareReg, Phase.bind_eq_error] using he)
  case store v g =>
    simp only [storeWord, Phase.bind_eq_error, effAddr_eq_error, fieldOf_eq_error, memRead_eq_error,
        memWrite_eq_error, Phase.pure_eq,
      reduceCtorEq, and_false, exists_false, or_false] at he
    rcases he with ⟨-, r⟩ | ⟨_, -, ⟨-, r⟩ | ⟨_, -, ⟨b, r⟩ | ⟨_, -, b, r⟩⟩⟩
    · exact .inr (.inl r)
    · exact .inl r
    · exact .inr (.inr (.inl ⟨_, addrOk_false b, r⟩))
    · exact .inr (.inr (.inl ⟨_, addrOk_false b, r⟩))
  case div g =>
    simp only [divideAX, Phase.bind_eq_error] at he
    rcases he with he | ⟨o, -, he⟩
    · exact fo g he
    · unfold endDivision at he
      split at he
      · cases he
      · rw [raiseHalt_eq_error] at he
        exact .inr (.inr (.inr (.inr (.inl ⟨hb, he⟩))))
  case num => exact ef (by simpa [numToA, Phase.bind_eq_error] using he)
  case char => exact ef (by simpa [charFromA, Phase.bind_eq_error] using he)
  case hlt => exact ef (by simpa [haltInstr, Phase.bind_eq_error] using he)
  case nop => exact ef (by simpa [noOperation, Phase.bind_eq_error] using he)
  case shiftA sh =>
    simp only [shiftA, Phase.bind_eq_error] at he
    rcases he with he | ⟨_, -, he⟩
    · exact .inr (.inl (shiftBits_eq_error he))
    · cases he
  case shiftAX sh =>
    simp only [shiftAX, Phase.bind_eq_error] at he
    rcases he with he | ⟨_, -, he⟩
    · exact .inr (.inl (shiftBits_eq_error he))
    · cases he
  case move g =>
    simp only [moveBlock, Phase.bind_eq_error] at he
    rcases he with he | ⟨ma, -, he | ⟨_, -, he⟩⟩
    · exact ef he
    · have : ∀ n src dst (s : State), copyWords src dst n s = .error h → ∃ mem n,
          (Memory.wf s.mem = true → Memory.wf mem = true) ∧ HaltsAt (s.setMem mem) h n := by
        intro n
        induction n with
        | zero => intro _ _ _ h; cases h
        | succ n ih =>
          intro src dst s hh
          simp only [copyWords, Phase.bind_eq_error, memRead_eq_ok, memRead_eq_error, memWrite_eq_ok,
              memWrite_eq_error] at hh
          rcases hh with ⟨b, rfl⟩ | ⟨w, -, ⟨b, rfl⟩ | ⟨t1, ⟨hd, rfl⟩, h⟩⟩
          · exact ⟨s.mem, _, id, addrOk_false b, rfl⟩
          · exact ⟨s.mem, _, id, addrOk_false b, rfl⟩
          · obtain ⟨mem, n, hwf, b⟩ := ih _ _ _ h
            rw [addrOk_iff] at hd
            exact ⟨mem, n, fun hw => hwf (State.putWord_wf hw (by simp only [memWords]; omega) w), b⟩
      exact .inr (.inr (.inr (.inl ⟨hb, this _ _ _ s he⟩)))
    · cases he
  case jump => exact ef (by simpa [jumpAlways, Phase.bind_eq_error] using he)
  case jumpSave => exact ef (by simpa [jumpSaveJ, Phase.bind_eq_error] using he)
  case jumpOv => exact ef (by simpa [jumpOverflow, Phase.bind_eq_error] using he)
  case jumpNov => exact ef (by simpa [jumpNoOverflow, Phase.bind_eq_error] using he)
  case jumpCi t => exact ef (by simpa [jumpCi, Phase.bind_eq_error] using he)
  case jumpReg r t => exact ef (by simpa [jumpReg, Phase.bind_eq_error] using he)
  case inc r => exact ef (by simpa [incReg, Phase.bind_eq_error] using he)
  case dec r => exact ef (by simpa [decReg, Phase.bind_eq_error] using he)
  case ent r => exact ef (by simpa [entReg, Phase.bind_eq_error] using he)
  case enn r => exact ef (by simpa [ennReg, Phase.bind_eq_error] using he)
  case jumpBusy g =>
    simp only [jumpBusy, Phase.bind_eq_error, unitOf_eq_error] at he
    rcases he with he | ⟨ma, -, ⟨-, r⟩ | ⟨_, -, he⟩⟩
    · exact ef he
    · exact .inr (.inl r)
    · cases he
  case jumpReady g =>
    simp only [jumpReady, Phase.bind_eq_error, unitOf_eq_error] at he
    rcases he with he | ⟨ma, -, ⟨-, r⟩ | ⟨_, -, he⟩⟩
    · exact ef he
    · exact .inr (.inl r)
    · cases he
  case startIo op g =>
    simp only [startIo, arm, Phase.bind_eq_error, unitOf_eq_error, unitOf_eq_ok] at he
    rcases he with he | ⟨ma, -, ⟨-, r⟩ | ⟨u, ⟨hu, rfl⟩, (he | ⟨_, -, he⟩) | ⟨_, -, he⟩⟩⟩
    · exact ef he
    · exact .inr (.inl r)
    · obtain ⟨text, k1, k2, k3, k4, k5, k6⟩ := transfer_halts (transfer_of_forceWaiting he)
      have := (unitTransfers_le hu).1
      refine .inr (.inr (.inr (.inr (.inr ⟨by unfold Shape.hasBytes at hb; omega,
          by unfold Shape.hasBytes at hb; omega, _, text, this, k1, fun hw => by rw [k2]; exact hw, k3,
          ⟨fun hl => ?_, k5⟩, k6⟩))))
      rw [k4 (by omega)]; exact ⟨rfl, .inl rfl⟩
    · cases he
    · cases he
  case control g =>
    simp only [controlUnit, Phase.bind_eq_error, unitOf_eq_error, unitOf_eq_ok] at he
    rcases he with he | ⟨ma, -, ⟨-, r⟩ | ⟨u, ⟨hu, rfl⟩, he | ⟨s1, e1, he | ⟨_, -, he⟩⟩⟩⟩
    · exact ef he
    · exact .inr (.inl r)
    · obtain ⟨text, k1, k2, k3, k4, k5, k6⟩ := transfer_halts (transfer_of_forceWaiting he)
      have := unitControls_le hu
      refine .inr (.inr (.inr (.inr (.inr ⟨by unfold Shape.hasBytes at hb; omega,
          by unfold Shape.hasBytes at hb; omega, _, text, this, k1, fun hw => by rw [k2]; exact hw, k3,
          ⟨fun hl => ?_, k5⟩, k6⟩))))
      rw [k4 (by omega)]; exact ⟨rfl, .inl rfl⟩
    · obtain ⟨j1, j2, j3, j4⟩ := forceWaiting_ok e1
      rw [askHost_eq_error] at he
      obtain ⟨text, -, rfl⟩ := he
      have hc : 35 ≤ c ∧ c ≤ 37 := by unfold Shape.hasBytes at hb; omega
      have hlen : (s1.setDev g.toNat { s1.dev g.toNat with timer := 0 }).devs.length = s.devs.length := by
        rw [State.setDev_length, j2]
      refine .inr (.inr (.inr (.inr (.inr ⟨hc.1, hc.2, _, text, unitControls_le hu, ?_, j4, rfl,
        ⟨fun hl => ?_, fun v hv => ?_⟩, ?_⟩))))
      · exact coreKept_trans j1 ⟨fun r _ => by cases r <;> rfl, rfl, ⟨rfl, rfl⟩, rfl, rfl, rfl⟩
      · have hg : g.toNat < s.devs.length := by have := unitControls_le hu; omega
        rw [State.setRun_dev, State.setDev_dev_self _ _ (by rw [State.logRequest_devs, hlen]; exact hg),
          State.setDev_dev_self _ _ (by rw [j2]; exact hg), State.dev_congr j2]
        exact ⟨rfl, .inr rfl⟩
      · rw [State.setRun_dev, State.setDev_dev_of_ne _ _ hv, State.logRequest_dev, State.setDev_dev_of_ne _ _ hv,
          State.dev_congr j2]
      · rw [State.setRun_devs, State.setDev_length, State.logRequest_devs, hlen]
    · cases he

/-- What an instruction with these C and F bytes and this address part leaves when it completes. -/
structure ExecEnds (c f : Nat) (m : Addr) (s t : State) : Prop where
  run : t.run = s.run
  execCount : t.execCount = s.execCount
  execTime : t.execTime = s.execTime
  params : t.params = s.params
  devs : t.devs = s.devs ∨
    (36 ≤ c ∧ c ≤ 37 ∧ ∃ u ma g op, effAddr m s = .ok ma ∧ u ≤ 20 ∧ (unitKind u).allows op = true ∧ g.toNat = u ∧
      t.devs = s.devs.set u { addr := ma.val, field := g, op := op, total := devTime u, timer := devTime u,
                              lastError := (s.dev u).lastError }) ∨
    (c = 35 ∧ ∃ u, u ≤ 20 ∧ t.devs = s.devs.set u { s.dev u with timer := 0 })
  host : ¬ (35 ≤ c ∧ c ≤ 37) → t.hostIn = s.hostIn ∧ t.hostLog = s.hostLog
  mem : ¬ (c = 7 ∨ (24 ≤ c ∧ c ≤ 33) ∨ (35 ≤ c ∧ c ≤ 37)) → t.mem = s.mem
  mem_wf : Memory.wf s.mem = true → Memory.wf t.mem = true
  ci : t.ci = s.ci ∨ 56 ≤ c
  ovf : t.ovf = s.ovf ∨ (t.ovf = false ∧ c = 39 ∧ (f = 2 ∨ f = 3)) ∨
    (t.ovf = true ∧ (c ∈ [1, 2] ∨ (c = 5 ∧ f = 0) ∨
      (48 ≤ c ∧ c ≤ 55 ∧ f ≤ 1 ∧ (s.indexBounded → c = 48 ∨ c = 55))))
  regs : ∀ r, t.reg r = s.reg r ∨ mayWrite r c f
  j : (t.j = s.j ∧ (mayWrite .J c f → t.pc = s.pc + 1)) ∨ t.j = Word.ofMag .plus (s.pc + 1).toNat
  pc : t.pc = s.pc + 1 ∨ ∃ ma, effAddr m s = .ok ma ∧ t.pc = ma.val

theorem mayWrite_of_block (r : Reg) (k : Nat) (c f : Nat) (h : c = k + regIndex r) (hk :
    k = 8 ∨ k = 16 ∨ (k = 48)) (hc : c < 64) : mayWrite r c f := by
  cases r <;> simp only [regIndex] at h <;> simp only [mayWrite] <;> rcases hk with rfl | rfl | rfl <;> subst h <;>
      simp at *

theorem execEnds_setReg {c f m} {s : State} {r : Reg} {w : Word} (hr : mayWrite r c f) (hJ : r ≠ .J) :
    ExecEnds c f m s (s.setReg r w).seq := by
  refine ⟨by simp, by simp, by simp, by simp, .inl (by simp), fun _ => ⟨by simp, by simp⟩, fun _ => by simp,
      fun h => by simpa using h, .inl (by simp), .inl (by simp), fun q => ?_, .inl ?_, .inl (by simp)⟩
  · by_cases e : q = r
    · subst e; exact .inr hr
    · left; simp [State.setReg_reg_of_ne _ _ e]
  · refine ⟨?_, fun _ => by simp⟩
    cases r <;> first | rfl | exact absurd rfl hJ

theorem execEnds_seq {c f m} (s : State) : ExecEnds c f m s s.seq := by
  refine ⟨rfl, rfl, rfl, rfl, .inl rfl, fun _ => ⟨rfl, rfl⟩, fun _ => rfl, id, .inl rfl, .inl rfl,
      fun q => .inl (by cases q <;> rfl), .inl ⟨rfl, fun _ => rfl⟩, .inl rfl⟩

theorem execEnds_takeJump {c f m ma} (s : State) (h : effAddr m s = .ok ma) (hJ : mayWrite .J c f) :
    ExecEnds c f m s (s.takeJump ma.val) := by
  refine ⟨rfl, rfl, rfl, rfl, .inl rfl, fun _ => ⟨rfl, rfl⟩, fun _ => rfl, id, .inl rfl, .inl rfl, fun q => ?_,
      .inr rfl, .inr ⟨ma, h, rfl⟩⟩
  cases q <;> first | exact .inl rfl | exact .inr hJ

theorem execEnds_raiseOvf {c f m} {s : State} {r : Reg} {w : Word} {o : Bool} (hr : mayWrite r c f) (hJ : r ≠ .J)
    (ho : o = true → c ∈ [1, 2] ∨ (c = 5 ∧ f = 0) ∨
      (48 ≤ c ∧ c ≤ 55 ∧ f ≤ 1 ∧ (s.indexBounded → c = 48 ∨ c = 55))) :
    ExecEnds c f m s ((s.setReg r w).raiseOvf o).seq := by
  obtain ⟨h1, h2, h3, h3b, h4, h5, h6, h7, h8, h9, h10, h11, h12⟩ := execEnds_setReg (m := m) (s := s) (w := w) hr hJ
  refine ⟨by simp [State.raiseOvf], by simp [State.raiseOvf], by simp [State.raiseOvf], by simp [State.raiseOvf],
      .inl (by simp [State.raiseOvf]), fun _ => ⟨by simp [State.raiseOvf], by simp [State.raiseOvf]⟩,
      fun _ => by simp [State.raiseOvf], fun h => by simpa [State.raiseOvf] using h,
      .inl (by simp [State.raiseOvf]), ?_, fun q => ?_, .inl ?_, .inl (by simp [State.raiseOvf])⟩
  · cases o
    · left; simp [State.raiseOvf]
    · right; right; exact ⟨by simp [State.raiseOvf], ho rfl⟩
  · have := h10 q
    simpa [State.raiseOvf] using this
  · refine ⟨?_, fun _ => by simp [State.raiseOvf]⟩
    cases r <;> first | rfl | exact absurd rfl hJ

theorem index_mag_lt {r : Reg} {s : State} (h : s.indexBounded) (hr : r ≠ .A) (hx : r ≠ .X) (hJ : r ≠ .J) :
    (s.reg r).mag < 4096 := by
  apply h; cases r <;> simp [indexRegs] at *

theorem effAddr_mag_le {m} {s : State} {ma} (hb : s.indexBounded) (h : effAddr m s = .ok ma) : ma.mag ≤ 8190 := by
  have hm := m.mag.isLt
  have ha : (addrWord m).mag = m.mag.toNat := Word.mag_ofMag _ (by simp only [magLimit]; omega)
  rcases effAddr_eq_ok.1 h with ⟨-, rfl⟩ | ⟨r, h1, rfl⟩
  · omega
  · have hr := indexReg_mem h1
    have := hb r hr
    have c := smAdd_cases (addrWord m) (s.reg r)
    rw [ha] at c
    simp only [idxLimit, magLimit] at *
    omega

theorem smAdd_no_overflow {d q : Word} (h1 : d.mag < 4096) (h2 : q.mag ≤ 8190) : (smAdd d q).2 = false := by
  have c := smAdd_cases d q
  simp only [magLimit] at *
  rcases c with ⟨_, _, ⟨_, _, h⟩ | ⟨_, _, h⟩⟩ | ⟨_, h, _⟩
  · exact h
  · omega
  · exact h

theorem overflow_of_inc {r : Reg} {m} {s : State} {ma q : Word} {c f v} (hb : c = 48 + regIndex r ∧ f = v) (hv : v ≤ 1)
    (hc : c < 64) (h : effAddr m s = .ok ma) (hq : q.mag = ma.mag) :
    (smAdd (s.reg r) q).2 = true → c ∈ [1, 2] ∨ (c = 5 ∧ f = 0) ∨
      (48 ≤ c ∧ c ≤ 55 ∧ f ≤ 1 ∧ (s.indexBounded → c = 48 ∨ c = 55)) := by
  intro ho
  obtain ⟨h1, h2⟩ := hb
  refine .inr (.inr ⟨by omega, ?_, by omega, fun hI => ?_⟩)
  · cases r <;> simp only [regIndex] at h1 <;> omega
  · by_contra hcc
    have : (s.reg r).mag < 4096 := by
      refine index_mag_lt hI ?_ ?_ ?_ <;> rintro rfl <;> simp only [regIndex] at h1
      · exact hcc (.inl h1)
      · exact hcc (.inr h1)
      · omega
    rw [smAdd_no_overflow this (hq ▸ effAddr_mag_le hI h)] at ho; cases ho

theorem execEnds_setAX {c f m} {s : State} {a x : Word} (h1 : mayWrite .A c f) (h2 : mayWrite .X c f) :
    ExecEnds c f m s ((s.setReg .A a).setReg .X x).seq := by
  refine ⟨rfl, rfl, rfl, rfl, .inl rfl, fun _ => ⟨rfl, rfl⟩, fun _ => rfl, id, .inl rfl, .inl rfl, fun q => ?_,
      .inl ⟨rfl, fun _ => rfl⟩, .inl rfl⟩
  cases q <;> first | exact .inl rfl | exact .inr h1 | exact .inr h2

theorem ne_J_of_block {r : Reg} {k c : Nat} (h : c = k + regIndex r) (hc : c < 64) : r ≠ .J := by
  rintro rfl; simp only [regIndex] at h; omega

theorem execEnds_ite {c f m} {s t u : State} {b : Bool} (h1 : ExecEnds c f m s t) (h2 : ExecEnds c f m s u) :
    ExecEnds c f m s (if b then t else u) := by
  cases b <;> simpa

theorem shape_ends (c f : Nat) (hc : c < 64) (m : Addr) (s t : State) (sh : Shape) (hb : sh.hasBytes c f) (he :
    sh.run m s = .ok t) : ExecEnds c f m s t := by
  cases sh <;> simp only [Shape.run] at he <;> simp only [Shape.hasBytes] at hb
  case load r g =>
    simp only [loadReg, Phase.bind_eq_ok, Phase.pure_eq, Except.ok.injEq] at he
    obtain ⟨o, -, rfl⟩ := he
    exact execEnds_setReg (mayWrite_of_block r 8 c f hb (by simp) hc) (ne_J_of_block hb hc)
  case loadNeg r g =>
    simp only [loadNegReg, Phase.bind_eq_ok, Phase.pure_eq, Except.ok.injEq] at he
    obtain ⟨o, -, rfl⟩ := he
    exact execEnds_setReg (mayWrite_of_block r 16 c f hb (by simp) hc) (ne_J_of_block hb hc)
  case add g =>
    simp only [addToA, Phase.bind_eq_ok, Phase.pure_eq, Except.ok.injEq] at he
    obtain ⟨o, -, rfl⟩ := he
    exact execEnds_raiseOvf (by simp [mayWrite, hb]) (by simp) (fun _ => by simp [hb])
  case sub g =>
    simp only [subFromA, Phase.bind_eq_ok, Phase.pure_eq, Except.ok.injEq] at he
    obtain ⟨o, -, rfl⟩ := he
    exact execEnds_raiseOvf (by simp [mayWrite, hb]) (by simp) (fun _ => by simp [hb])
  case mul g =>
    simp only [multiplyA, Phase.bind_eq_ok, Phase.pure_eq, Except.ok.injEq] at he
    obtain ⟨o, -, rfl⟩ := he
    exact execEnds_setAX (by simp [mayWrite, hb]) (by simp [mayWrite, hb])
  case compare r g =>
    simp only [compareReg, Phase.bind_eq_ok, Phase.pure_eq, Except.ok.injEq] at he
    obtain ⟨o, -, rfl⟩ := he
    exact ⟨rfl, rfl, rfl, rfl, .inl rfl, fun _ => ⟨rfl, rfl⟩, fun _ => rfl, id, .inr hb, .inl rfl,
        fun q => .inl (by cases q <;> rfl), .inl ⟨rfl, fun _ => rfl⟩, .inl rfl⟩
  case store v g =>
    simp only [storeWord, Phase.bind_eq_ok, memWrite_eq_ok, Phase.pure_eq, Except.ok.injEq] at he
    obtain ⟨ma, -, p, -, w, -, t1, ⟨ha, rfl⟩, rfl⟩ := he
    refine ⟨rfl, rfl, rfl, rfl, .inl rfl, fun _ => ⟨rfl, rfl⟩, fun h => absurd (.inr (.inl hb)) h, fun hw => ?_,
        .inl rfl, .inl rfl, fun q => .inl (by cases q <;> rfl), .inl ⟨rfl, fun _ => rfl⟩, .inl rfl⟩
    rw [addrOk_iff] at ha
    exact State.putWord_wf hw (by simp only [memWords]; omega) _
  case div g =>
    simp only [divideAX, Phase.bind_eq_ok] at he
    obtain ⟨o, -, he⟩ := he
    unfold endDivision at he
    split at he
    · cases he; exact execEnds_setAX (by simp [mayWrite, hb]) (by simp [mayWrite, hb])
    · simp at he
  case num =>
    simp only [numToA, Phase.bind_eq_ok, Phase.pure_eq, Except.ok.injEq] at he
    obtain ⟨o, -, rfl⟩ := he
    exact execEnds_raiseOvf (by simp [mayWrite, hb]) (by simp) (fun _ => by simp [hb])
  case char =>
    simp only [charFromA, Phase.bind_eq_ok, Phase.pure_eq, Except.ok.injEq] at he
    obtain ⟨o, -, rfl⟩ := he
    exact execEnds_setAX (by simp [mayWrite, hb]) (by simp [mayWrite, hb])
  case hlt =>
    simp only [haltInstr, Phase.bind_eq_ok, Phase.pure_eq, Except.ok.injEq] at he
    obtain ⟨o, -, rfl⟩ := he
    exact execEnds_seq s
  case nop =>
    simp only [noOperation, Phase.bind_eq_ok, Phase.pure_eq, Except.ok.injEq] at he
    obtain ⟨o, -, rfl⟩ := he
    exact execEnds_seq s
  case shiftA sh =>
    simp only [shiftA, Phase.bind_eq_ok, Phase.pure_eq, Except.ok.injEq] at he
    obtain ⟨o, -, rfl⟩ := he
    exact execEnds_setReg (by simp [mayWrite, hb]) (by simp)
  case shiftAX sh =>
    simp only [shiftAX, Phase.bind_eq_ok, Phase.pure_eq, Except.ok.injEq] at he
    obtain ⟨o, -, rfl⟩ := he
    exact execEnds_setAX (by simp [mayWrite, hb]) (by simp [mayWrite, hb])
  case move g =>
    simp only [moveBlock, Phase.bind_eq_ok, Phase.pure_eq, Except.ok.injEq] at he
    obtain ⟨ma, -, t1, h1, rfl⟩ := he
    obtain ⟨mem, rfl, hwf⟩ := copyWords_ok h1
    refine ⟨rfl, rfl, rfl, rfl, .inl rfl, fun _ => ⟨rfl, rfl⟩, fun h => absurd (.inl hb) h, hwf, .inl rfl, .inl rfl,
        fun q => ?_, .inl ⟨rfl, fun _ => rfl⟩, .inl rfl⟩
    cases q <;> first | exact .inl rfl | exact .inr (by simp [mayWrite, hb])
  case jump =>
    simp only [jumpAlways, Phase.bind_eq_ok, Phase.pure_eq, Except.ok.injEq] at he
    obtain ⟨ma, h1, rfl⟩ := he
    exact execEnds_takeJump s h1 (by simp [mayWrite, hb])
  case jumpSave =>
    simp only [jumpSaveJ, Phase.bind_eq_ok, Phase.pure_eq, Except.ok.injEq] at he
    obtain ⟨ma, h1, rfl⟩ := he
    refine ⟨rfl, rfl, rfl, rfl, .inl rfl, fun _ => ⟨rfl, rfl⟩, fun _ => rfl, id, .inl rfl, .inl rfl,
        fun q => .inl (by cases q <;> rfl), .inl ⟨rfl, fun h => ?_⟩, .inr ⟨ma, h1, rfl⟩⟩
    simp [mayWrite, hb] at h
  case jumpOv =>
    simp only [jumpOverflow, Phase.bind_eq_ok, Phase.pure_eq, Except.ok.injEq] at he
    obtain ⟨ma, h1, rfl⟩ := he
    refine execEnds_ite ?_ (execEnds_seq s)
    refine ⟨rfl, rfl, rfl, rfl, .inl rfl, fun _ => ⟨rfl, rfl⟩, fun _ => rfl, id, .inl rfl, .inr (.inl ⟨rfl, hb.1,
        by omega⟩), fun q => ?_, .inr rfl, .inr ⟨ma, h1, rfl⟩⟩
    cases q <;> first | exact .inl rfl | exact .inr (by simp [mayWrite, hb])
  case jumpNov =>
    simp only [jumpNoOverflow, Phase.bind_eq_ok, Phase.pure_eq, Except.ok.injEq] at he
    obtain ⟨ma, h1, rfl⟩ := he
    refine execEnds_ite ?_ (execEnds_takeJump s h1 (by simp [mayWrite, hb]))
    exact ⟨rfl, rfl, rfl, rfl, .inl rfl, fun _ => ⟨rfl, rfl⟩, fun _ => rfl, id, .inl rfl, .inr (.inl ⟨rfl, hb.1,
        by omega⟩), fun q => .inl (by cases q <;> rfl), .inl ⟨rfl, fun _ => rfl⟩, .inl rfl⟩
  case jumpCi t =>
    simp only [jumpCi, Phase.bind_eq_ok, Phase.pure_eq, Except.ok.injEq] at he
    obtain ⟨ma, h1, rfl⟩ := he
    exact execEnds_ite (execEnds_takeJump s h1 (by simp [mayWrite, hb]; omega)) (execEnds_seq s)
  case jumpReg r t =>
    simp only [jumpReg, Phase.bind_eq_ok, Phase.pure_eq, Except.ok.injEq] at he
    obtain ⟨ma, h1, rfl⟩ := he
    exact execEnds_ite (execEnds_takeJump s h1 (by simp [mayWrite, hb])) (execEnds_seq s)
  case inc r =>
    simp only [incReg, Phase.bind_eq_ok, Phase.pure_eq, Except.ok.injEq] at he
    obtain ⟨ma, h1, rfl⟩ := he
    exact execEnds_raiseOvf (mayWrite_of_block r 48 c f hb.1 (by simp) hc) (ne_J_of_block hb.1 hc)
        (overflow_of_inc hb (by omega) hc h1 rfl)
  case dec r =>
    simp only [decReg, Phase.bind_eq_ok, Phase.pure_eq, Except.ok.injEq] at he
    obtain ⟨ma, h1, rfl⟩ := he
    exact execEnds_raiseOvf (mayWrite_of_block r 48 c f hb.1 (by simp) hc) (ne_J_of_block hb.1 hc)
        (overflow_of_inc hb (by omega) hc h1 rfl)
  case ent r =>
    simp only [entReg, Phase.bind_eq_ok, Phase.pure_eq, Except.ok.injEq] at he
    obtain ⟨ma, h1, rfl⟩ := he
    exact execEnds_setReg (mayWrite_of_block r 48 c f hb.1 (by simp) hc) (ne_J_of_block hb.1 hc)
  case enn r =>
    simp only [ennReg, Phase.bind_eq_ok, Phase.pure_eq, Except.ok.injEq] at he
    obtain ⟨ma, h1, rfl⟩ := he
    exact execEnds_setReg (mayWrite_of_block r 48 c f hb.1 (by simp) hc) (ne_J_of_block hb.1 hc)
  case jumpBusy g =>
    simp only [jumpBusy, Phase.bind_eq_ok, Phase.pure_eq, Except.ok.injEq] at he
    obtain ⟨ma, h1, u, -, rfl⟩ := he
    exact execEnds_ite (execEnds_takeJump s h1 (by simp [mayWrite, hb])) (execEnds_seq s)
  case jumpReady g =>
    simp only [jumpReady, Phase.bind_eq_ok, Phase.pure_eq, Except.ok.injEq] at he
    obtain ⟨ma, h1, u, -, rfl⟩ := he
    exact execEnds_ite (execEnds_seq s) (execEnds_takeJump s h1 (by simp [mayWrite, hb]))
  case startIo op g =>
    simp only [startIo, arm, Phase.bind_eq_ok, Phase.pure_eq, Except.ok.injEq, unitOf_eq_ok] at he
    obtain ⟨ma, h1, u, ⟨hu, rfl⟩, t1, ⟨t2, h2, rfl⟩, rfl⟩ := he
    obtain ⟨k1, k2, k3, k4⟩ := forceWaiting_ok h2
    obtain ⟨hu1, hu2⟩ := unitTransfers_le hu
    refine ⟨k3, k1.2.2.2.1, k1.2.2.2.2.1, k1.2.2.2.2.2, .inr (.inl ⟨hb.1, hb.2, g.toNat, ma, g, op, h1, hu1, hu2, rfl, ?_⟩),
        fun h => absurd (by omega) h, fun h => absurd (by omega) h, k4, .inl k1.2.2.1.2, .inl k1.2.2.1.1,
        fun q => .inl ?_, .inl ⟨?_, fun h => ?_⟩, .inl ?_⟩
    · show t2.devs.set _ _ = _
      rw [k2, State.dev_congr k2]
    · rw [← coreKept_reg k1 q]; cases q <;> rfl
    · exact coreKept_reg k1 .J
    · simp only [mayWrite, List.mem_cons, List.not_mem_nil, or_false] at h; omega
    · show t2.pc + 1 = _; rw [k1.2.1]
  case control g =>
    simp only [controlUnit, Phase.bind_eq_ok, Phase.pure_eq, Except.ok.injEq, unitOf_eq_ok, askHost_eq_ok] at he
    obtain ⟨ma, h1, u, ⟨hu, rfl⟩, t2, h2, t3, ⟨-, rfl⟩, rfl⟩ := he
    obtain ⟨k1, k2, k3, k4⟩ := forceWaiting_ok h2
    refine ⟨k3, k1.2.2.2.1, k1.2.2.2.2.1, k1.2.2.2.2.2, .inr (.inr ⟨hb, g.toNat, unitControls_le hu, ?_⟩),
        fun h => absurd (by omega) h, fun h => absurd (by omega) h, k4, .inl k1.2.2.1.2, .inl k1.2.2.1.1,
        fun q => .inl ?_, .inl ⟨?_, fun h => ?_⟩, .inl ?_⟩
    · show t2.devs.set _ _ = _
      rw [k2, State.dev_congr k2]
    · rw [← coreKept_reg k1 q]; cases q <;> rfl
    · exact coreKept_reg k1 .J
    · simp only [mayWrite, List.mem_cons, List.not_mem_nil, or_false] at h; omega
    · show t2.pc + 1 = _; rw [k1.2.1]

/-- An instruction completes or halts, and these are the states it can leave. -/
theorem exec_ends_or_halts {i : Instr} {s t : State} (h : exec i s = .next t) :
    ExecEnds (opByte i) (fByte i) i.addr s t ∨ ExecHalts (opByte i) s t := by
  rw [exec_eq_shape, outcome_eq_next, settle_eq] at h
  rcases h with h | h
  · exact .inl (shape_ends _ _ (encode i).b5.isLt _ _ _ _ (shape_hasBytes i) h)
  · exact .inr (shape_halts _ _ _ _ _ _ (shape_hasBytes i) h)

end Sys2Proof.Machine
end

