-- ==== Sys2Proof/Laws/Forms.lean ====
section
/-! SUPPORT. For each list of forms, the one shared operation that is the meaning of its members. -/

namespace Sys2Proof.Machine

theorem exec_of_mem_loadForms {e : Reg × (Addr → Byte → Instr)} (h : e ∈ loadForms) (m : Addr) (f : Byte) (s : State) :
    exec (e.2 m f) s = outcome (loadReg e.1 m f s) := by
  simp only [loadForms, List.mem_cons, List.not_mem_nil, or_false] at h
  rcases h with rfl | rfl | rfl | rfl | rfl | rfl | rfl | rfl <;> rfl

theorem exec_of_mem_loadNegForms {e : Reg × (Addr → Byte → Instr)} (h : e ∈ loadNegForms) (m : Addr) (f : Byte) (s : State) :
    exec (e.2 m f) s = outcome (loadNegReg e.1 m f s) := by
  simp only [loadNegForms, List.mem_cons, List.not_mem_nil, or_false] at h
  rcases h with rfl | rfl | rfl | rfl | rfl | rfl | rfl | rfl <;> rfl

theorem exec_of_mem_allStoreForms {e : (State → Word) × (Addr → Byte → Instr)} (h : e ∈ allStoreForms) (m : Addr) (f : Byte) (s : State) :
    exec (e.2 m f) s = outcome (storeWord (e.1 s) m f s) := by
  simp only [allStoreForms, storeForms, List.map_cons, List.map_nil, List.cons_append, List.nil_append, List.mem_cons, List.not_mem_nil, or_false] at h
  rcases h with rfl | rfl | rfl | rfl | rfl | rfl | rfl | rfl | rfl | rfl <;> rfl

theorem exec_of_mem_compareForms {e : Reg × (Addr → Byte → Instr)} (h : e ∈ compareForms) (m : Addr) (f : Byte) (s : State) :
    exec (e.2 m f) s = outcome (compareReg e.1 m f s) := by
  simp only [compareForms, List.mem_cons, List.not_mem_nil, or_false] at h
  rcases h with rfl | rfl | rfl | rfl | rfl | rfl | rfl | rfl <;> rfl

theorem exec_of_mem_jumpNegForms {e : Reg × (Addr → Instr)} (h : e ∈ jumpNegForms) (m : Addr) (s : State) :
    exec (e.2 m) s = outcome (jumpReg e.1 .neg m s) := by
  simp only [jumpNegForms, List.mem_cons, List.not_mem_nil, or_false] at h
  rcases h with rfl | rfl | rfl | rfl | rfl | rfl | rfl | rfl <;> rfl

theorem exec_of_mem_jumpZeroForms {e : Reg × (Addr → Instr)} (h : e ∈ jumpZeroForms) (m : Addr) (s : State) :
    exec (e.2 m) s = outcome (jumpReg e.1 .zero m s) := by
  simp only [jumpZeroForms, List.mem_cons, List.not_mem_nil, or_false] at h
  rcases h with rfl | rfl | rfl | rfl | rfl | rfl | rfl | rfl <;> rfl

theorem exec_of_mem_jumpPosForms {e : Reg × (Addr → Instr)} (h : e ∈ jumpPosForms) (m : Addr) (s : State) :
    exec (e.2 m) s = outcome (jumpReg e.1 .pos m s) := by
  simp only [jumpPosForms, List.mem_cons, List.not_mem_nil, or_false] at h
  rcases h with rfl | rfl | rfl | rfl | rfl | rfl | rfl | rfl <;> rfl

theorem exec_of_mem_jumpNonNegForms {e : Reg × (Addr → Instr)} (h : e ∈ jumpNonNegForms) (m : Addr) (s : State) :
    exec (e.2 m) s = outcome (jumpReg e.1 .nonNeg m s) := by
  simp only [jumpNonNegForms, List.mem_cons, List.not_mem_nil, or_false] at h
  rcases h with rfl | rfl | rfl | rfl | rfl | rfl | rfl | rfl <;> rfl

theorem exec_of_mem_jumpNonZeroForms {e : Reg × (Addr → Instr)} (h : e ∈ jumpNonZeroForms) (m : Addr) (s : State) :
    exec (e.2 m) s = outcome (jumpReg e.1 .nonZero m s) := by
  simp only [jumpNonZeroForms, List.mem_cons, List.not_mem_nil, or_false] at h
  rcases h with rfl | rfl | rfl | rfl | rfl | rfl | rfl | rfl <;> rfl

theorem exec_of_mem_jumpNonPosForms {e : Reg × (Addr → Instr)} (h : e ∈ jumpNonPosForms) (m : Addr) (s : State) :
    exec (e.2 m) s = outcome (jumpReg e.1 .nonPos m s) := by
  simp only [jumpNonPosForms, List.mem_cons, List.not_mem_nil, or_false] at h
  rcases h with rfl | rfl | rfl | rfl | rfl | rfl | rfl | rfl <;> rfl

theorem exec_of_mem_incForms {e : Reg × (Addr → Instr)} (h : e ∈ incForms) (m : Addr) (s : State) :
    exec (e.2 m) s = outcome (incReg e.1 m s) := by
  simp only [incForms, List.mem_cons, List.not_mem_nil, or_false] at h
  rcases h with rfl | rfl | rfl | rfl | rfl | rfl | rfl | rfl <;> rfl

theorem exec_of_mem_decForms {e : Reg × (Addr → Instr)} (h : e ∈ decForms) (m : Addr) (s : State) :
    exec (e.2 m) s = outcome (decReg e.1 m s) := by
  simp only [decForms, List.mem_cons, List.not_mem_nil, or_false] at h
  rcases h with rfl | rfl | rfl | rfl | rfl | rfl | rfl | rfl <;> rfl

theorem exec_of_mem_entForms {e : Reg × (Addr → Instr)} (h : e ∈ entForms) (m : Addr) (s : State) :
    exec (e.2 m) s = outcome (entReg e.1 m s) := by
  simp only [entForms, List.mem_cons, List.not_mem_nil, or_false] at h
  rcases h with rfl | rfl | rfl | rfl | rfl | rfl | rfl | rfl <;> rfl

theorem exec_of_mem_ennForms {e : Reg × (Addr → Instr)} (h : e ∈ ennForms) (m : Addr) (s : State) :
    exec (e.2 m) s = outcome (ennReg e.1 m s) := by
  simp only [ennForms, List.mem_cons, List.not_mem_nil, or_false] at h
  rcases h with rfl | rfl | rfl | rfl | rfl | rfl | rfl | rfl <;> rfl

end Sys2Proof.Machine
end

