-- ==== Sys2Proof/Laws/PerInstr.lean ====
section
/-! SUPPORT. Statements for all instructions, made per instruction: the F and C bytes of an instruction's word look the
same instruction up again. -/

namespace Sys2Proof.Laws.LookupEncode

/-- The lookup of 41_cycle.md R218 on the bytes the encoder writes gives the instruction back. -/
def Statement (i : Instr) : Prop := lookupInstr (encode i).b5 (encode i).b4 i.addr = some i

theorem nop (m : Addr) (f : Byte) : Statement (.nop m f) := rfl
theorem add (m : Addr) (f : Byte) : Statement (.add m f) := rfl
theorem sub (m : Addr) (f : Byte) : Statement (.sub m f) := rfl
theorem mul (m : Addr) (f : Byte) : Statement (.mul m f) := rfl
theorem div (m : Addr) (f : Byte) : Statement (.div m f) := rfl
theorem num (m : Addr) : Statement (.num m) := rfl
theorem char (m : Addr) : Statement (.char m) := rfl
theorem hlt (m : Addr) : Statement (.hlt m) := rfl
theorem sla (m : Addr) : Statement (.sla m) := rfl
theorem sra (m : Addr) : Statement (.sra m) := rfl
theorem slax (m : Addr) : Statement (.slax m) := rfl
theorem srax (m : Addr) : Statement (.srax m) := rfl
theorem slc (m : Addr) : Statement (.slc m) := rfl
theorem src (m : Addr) : Statement (.src m) := rfl
theorem move (m : Addr) (f : Byte) : Statement (.move m f) := rfl
theorem lda (m : Addr) (f : Byte) : Statement (.lda m f) := rfl
theorem ld1 (m : Addr) (f : Byte) : Statement (.ld1 m f) := rfl
theorem ld2 (m : Addr) (f : Byte) : Statement (.ld2 m f) := rfl
theorem ld3 (m : Addr) (f : Byte) : Statement (.ld3 m f) := rfl
theorem ld4 (m : Addr) (f : Byte) : Statement (.ld4 m f) := rfl
theorem ld5 (m : Addr) (f : Byte) : Statement (.ld5 m f) := rfl
theorem ld6 (m : Addr) (f : Byte) : Statement (.ld6 m f) := rfl
theorem ldx (m : Addr) (f : Byte) : Statement (.ldx m f) := rfl
theorem ldan (m : Addr) (f : Byte) : Statement (.ldan m f) := rfl
theorem ld1n (m : Addr) (f : Byte) : Statement (.ld1n m f) := rfl
theorem ld2n (m : Addr) (f : Byte) : Statement (.ld2n m f) := rfl
theorem ld3n (m : Addr) (f : Byte) : Statement (.ld3n m f) := rfl
theorem ld4n (m : Addr) (f : Byte) : Statement (.ld4n m f) := rfl
theorem ld5n (m : Addr) (f : Byte) : Statement (.ld5n m f) := rfl
theorem ld6n (m : Addr) (f : Byte) : Statement (.ld6n m f) := rfl
theorem ldxn (m : Addr) (f : Byte) : Statement (.ldxn m f) := rfl
theorem sta (m : Addr) (f : Byte) : Statement (.sta m f) := rfl
theorem st1 (m : Addr) (f : Byte) : Statement (.st1 m f) := rfl
theorem st2 (m : Addr) (f : Byte) : Statement (.st2 m f) := rfl
theorem st3 (m : Addr) (f : Byte) : Statement (.st3 m f) := rfl
theorem st4 (m : Addr) (f : Byte) : Statement (.st4 m f) := rfl
theorem st5 (m : Addr) (f : Byte) : Statement (.st5 m f) := rfl
theorem st6 (m : Addr) (f : Byte) : Statement (.st6 m f) := rfl
theorem stx (m : Addr) (f : Byte) : Statement (.stx m f) := rfl
theorem stj (m : Addr) (f : Byte) : Statement (.stj m f) := rfl
theorem stz (m : Addr) (f : Byte) : Statement (.stz m f) := rfl
theorem jbus (m : Addr) (f : Byte) : Statement (.jbus m f) := rfl
theorem ioc (m : Addr) (f : Byte) : Statement (.ioc m f) := rfl
theorem inp (m : Addr) (f : Byte) : Statement (.inp m f) := rfl
theorem out (m : Addr) (f : Byte) : Statement (.out m f) := rfl
theorem jred (m : Addr) (f : Byte) : Statement (.jred m f) := rfl
theorem jmp (m : Addr) : Statement (.jmp m) := rfl
theorem jsj (m : Addr) : Statement (.jsj m) := rfl
theorem jov (m : Addr) : Statement (.jov m) := rfl
theorem jnov (m : Addr) : Statement (.jnov m) := rfl
theorem jl (m : Addr) : Statement (.jl m) := rfl
theorem je (m : Addr) : Statement (.je m) := rfl
theorem jg (m : Addr) : Statement (.jg m) := rfl
theorem jge (m : Addr) : Statement (.jge m) := rfl
theorem jne (m : Addr) : Statement (.jne m) := rfl
theorem jle (m : Addr) : Statement (.jle m) := rfl
theorem jan (m : Addr) : Statement (.jan m) := rfl
theorem jaz (m : Addr) : Statement (.jaz m) := rfl
theorem jap (m : Addr) : Statement (.jap m) := rfl
theorem jann (m : Addr) : Statement (.jann m) := rfl
theorem janz (m : Addr) : Statement (.janz m) := rfl
theorem janp (m : Addr) : Statement (.janp m) := rfl
theorem j1n (m : Addr) : Statement (.j1n m) := rfl
theorem j1z (m : Addr) : Statement (.j1z m) := rfl
theorem j1p (m : Addr) : Statement (.j1p m) := rfl
theorem j1nn (m : Addr) : Statement (.j1nn m) := rfl
theorem j1nz (m : Addr) : Statement (.j1nz m) := rfl
theorem j1np (m : Addr) : Statement (.j1np m) := rfl
theorem j2n (m : Addr) : Statement (.j2n m) := rfl
theorem j2z (m : Addr) : Statement (.j2z m) := rfl
theorem j2p (m : Addr) : Statement (.j2p m) := rfl
theorem j2nn (m : Addr) : Statement (.j2nn m) := rfl
theorem j2nz (m : Addr) : Statement (.j2nz m) := rfl
theorem j2np (m : Addr) : Statement (.j2np m) := rfl
theorem j3n (m : Addr) : Statement (.j3n m) := rfl
theorem j3z (m : Addr) : Statement (.j3z m) := rfl
theorem j3p (m : Addr) : Statement (.j3p m) := rfl
theorem j3nn (m : Addr) : Statement (.j3nn m) := rfl
theorem j3nz (m : Addr) : Statement (.j3nz m) := rfl
theorem j3np (m : Addr) : Statement (.j3np m) := rfl
theorem j4n (m : Addr) : Statement (.j4n m) := rfl
theorem j4z (m : Addr) : Statement (.j4z m) := rfl
theorem j4p (m : Addr) : Statement (.j4p m) := rfl
theorem j4nn (m : Addr) : Statement (.j4nn m) := rfl
theorem j4nz (m : Addr) : Statement (.j4nz m) := rfl
theorem j4np (m : Addr) : Statement (.j4np m) := rfl
theorem j5n (m : Addr) : Statement (.j5n m) := rfl
theorem j5z (m : Addr) : Statement (.j5z m) := rfl
theorem j5p (m : Addr) : Statement (.j5p m) := rfl
theorem j5nn (m : Addr) : Statement (.j5nn m) := rfl
theorem j5nz (m : Addr) : Statement (.j5nz m) := rfl
theorem j5np (m : Addr) : Statement (.j5np m) := rfl
theorem j6n (m : Addr) : Statement (.j6n m) := rfl
theorem j6z (m : Addr) : Statement (.j6z m) := rfl
theorem j6p (m : Addr) : Statement (.j6p m) := rfl
theorem j6nn (m : Addr) : Statement (.j6nn m) := rfl
theorem j6nz (m : Addr) : Statement (.j6nz m) := rfl
theorem j6np (m : Addr) : Statement (.j6np m) := rfl
theorem jxn (m : Addr) : Statement (.jxn m) := rfl
theorem jxz (m : Addr) : Statement (.jxz m) := rfl
theorem jxp (m : Addr) : Statement (.jxp m) := rfl
theorem jxnn (m : Addr) : Statement (.jxnn m) := rfl
theorem jxnz (m : Addr) : Statement (.jxnz m) := rfl
theorem jxnp (m : Addr) : Statement (.jxnp m) := rfl
theorem inca (m : Addr) : Statement (.inca m) := rfl
theorem deca (m : Addr) : Statement (.deca m) := rfl
theorem enta (m : Addr) : Statement (.enta m) := rfl
theorem enna (m : Addr) : Statement (.enna m) := rfl
theorem inc1 (m : Addr) : Statement (.inc1 m) := rfl
theorem dec1 (m : Addr) : Statement (.dec1 m) := rfl
theorem ent1 (m : Addr) : Statement (.ent1 m) := rfl
theorem enn1 (m : Addr) : Statement (.enn1 m) := rfl
theorem inc2 (m : Addr) : Statement (.inc2 m) := rfl
theorem dec2 (m : Addr) : Statement (.dec2 m) := rfl
theorem ent2 (m : Addr) : Statement (.ent2 m) := rfl
theorem enn2 (m : Addr) : Statement (.enn2 m) := rfl
theorem inc3 (m : Addr) : Statement (.inc3 m) := rfl
theorem dec3 (m : Addr) : Statement (.dec3 m) := rfl
theorem ent3 (m : Addr) : Statement (.ent3 m) := rfl
theorem enn3 (m : Addr) : Statement (.enn3 m) := rfl
theorem inc4 (m : Addr) : Statement (.inc4 m) := rfl
theorem dec4 (m : Addr) : Statement (.dec4 m) := rfl
theorem ent4 (m : Addr) : Statement (.ent4 m) := rfl
theorem enn4 (m : Addr) : Statement (.enn4 m) := rfl
theorem inc5 (m : Addr) : Statement (.inc5 m) := rfl
theorem dec5 (m : Addr) : Statement (.dec5 m) := rfl
theorem ent5 (m : Addr) : Statement (.ent5 m) := rfl
theorem enn5 (m : Addr) : Statement (.enn5 m) := rfl
theorem inc6 (m : Addr) : Statement (.inc6 m) := rfl
theorem dec6 (m : Addr) : Statement (.dec6 m) := rfl
theorem ent6 (m : Addr) : Statement (.ent6 m) := rfl
theorem enn6 (m : Addr) : Statement (.enn6 m) := rfl
theorem incx (m : Addr) : Statement (.incx m) := rfl
theorem decx (m : Addr) : Statement (.decx m) := rfl
theorem entx (m : Addr) : Statement (.entx m) := rfl
theorem ennx (m : Addr) : Statement (.ennx m) := rfl
theorem cmpa (m : Addr) (f : Byte) : Statement (.cmpa m f) := rfl
theorem cmp1 (m : Addr) (f : Byte) : Statement (.cmp1 m f) := rfl
theorem cmp2 (m : Addr) (f : Byte) : Statement (.cmp2 m f) := rfl
theorem cmp3 (m : Addr) (f : Byte) : Statement (.cmp3 m f) := rfl
theorem cmp4 (m : Addr) (f : Byte) : Statement (.cmp4 m f) := rfl
theorem cmp5 (m : Addr) (f : Byte) : Statement (.cmp5 m f) := rfl
theorem cmp6 (m : Addr) (f : Byte) : Statement (.cmp6 m f) := rfl
theorem cmpx (m : Addr) (f : Byte) : Statement (.cmpx m f) := rfl

end Sys2Proof.Laws.LookupEncode
end

