-- ==== Sys2Proof/Laws/Step.lean ====
section
/-! SUPPORT. What a step can do, said once: the inversion of `step`, and of the phases around EXECUTE. -/

namespace Sys2Proof.Machine

/-! ### The phases -/

theorem fetch_eq_ok {s : State} {i : Instr} (ha : addrOk s.pc = true) (hd : decode (s.wordAt s.pc.toNat) = .ok i) :
    fetch s = .ok i := by
  simp [fetch, memRead, ha, hd]

theorem finish_of_halted {i : Instr} {s t : State} {r : HaltReason} {info : HaltInfo} (h : t.run = .halted r info) :
    finish i s t = t := by
  unfold finish; rw [h]

theorem finish_of_running {i : Instr} {s t : State} (h : t.run = .running) :
    finish i s t = settle (ioUpdate s.pc (cost s i) (armedUnit i) t >>= fun t₁ => checkRegs s.pc t₁ >>= fun t₂ =>
      .ok (stopPhase s.pc i (record s.pc (cost s i) t₂))) := by
  unfold finish; rw [h]; rfl

/-- Phase CHECK halts at the first register that is too large, and names it. -/
theorem checkRegs_eq_error {pc0 : Int} {t u : State} (h : checkRegs pc0 t = .error u) :
    ∃ pre r post, checkedRegs = pre ++ r :: post ∧ idxLimit ≤ (t.reg r).mag ∧ (∀ q ∈ pre, (t.reg q).mag < idxLimit) ∧
      u = t.setRun (.halted .registerOverflow { pc := pc0, reg := some r }) := by
  unfold checkRegs at h
  split at h
  · rename_i r hf
    rw [raiseHalt_eq_error] at h
    rw [List.find?_eq_some_iff_append] at hf
    obtain ⟨h1, pre, post, h2, h3⟩ := hf
    refine ⟨pre, r, post, h2, of_decide_eq_true h1, fun q hq => ?_, h⟩
    simpa using h3 q hq
  · cases h

theorem checkRegs_eq_ok {pc0 : Int} {t u : State} :
    checkRegs pc0 t = .ok u ↔ (∀ r ∈ checkedRegs, (t.reg r).mag < idxLimit) ∧ t = u := by
  unfold checkRegs
  split
  · rename_i r hf
    have hr := List.mem_of_find?_eq_some hf
    have hb := List.find?_some hf
    simp only [raiseHalt_ne_ok, false_iff, not_and]
    intro hall
    have := hall r hr
    have := of_decide_eq_true hb
    omega
  · rename_i hf
    rw [List.find?_eq_none] at hf
    simp only [Except.ok.injEq]
    exact ⟨fun h => ⟨fun r hr => by simpa using hf r hr, h⟩, fun h => h.2⟩

/-- The three ends of the phases after EXECUTE. -/
def Finishes (s : State) (i : Instr) (t u : State) : Prop :=
  ioUpdate s.pc (cost s i) (armedUnit i) t = .error u ∨
  (∃ t₁, ioUpdate s.pc (cost s i) (armedUnit i) t = .ok t₁ ∧ checkRegs s.pc t₁ = .error u) ∨
  ∃ t₁, ioUpdate s.pc (cost s i) (armedUnit i) t = .ok t₁ ∧ (∀ r ∈ checkedRegs, (t₁.reg r).mag < idxLimit) ∧
    u = stopPhase s.pc i (record s.pc (cost s i) t₁)

theorem finishes_of_running {i : Instr} {s t : State} (h : t.run = .running) : Finishes s i t (finish i s t) := by
  rw [finish_of_running h]
  unfold Finishes
  cases h1 : ioUpdate s.pc (cost s i) (armedUnit i) t with
  | error u => exact .inl rfl
  | ok t₁ =>
    right
    rw [Phase.ok_bind]
    cases h2 : checkRegs s.pc t₁ with
    | error u => exact .inl ⟨t₁, rfl, h2⟩
    | ok t₂ =>
      obtain ⟨h3, rfl⟩ := checkRegs_eq_ok.1 h2
      exact .inr ⟨t₁, rfl, h3, rfl⟩

/-! ### The step -/

theorem execHalts_halted {c : Nat} {s u : State} (h : ExecHalts c s u) : ∃ r info, u.run = .halted r info := by
  rcases h with e | e | ⟨n, _, e⟩ | ⟨_, _, n, _, _, e⟩ | ⟨_, e⟩ | ⟨_, _, _, _, _, _, _, e, _⟩
  all_goals first | exact ⟨_, _, e⟩ | (rw [e]; exact ⟨_, _, rfl⟩)

/-- The step from a RUNNING state whose word at pc is an instruction. -/
theorem step_of_decode {s t : State} {i : Instr} (hr : s.run = .running) (ha : addrOk s.pc = true)
    (hd : decode (s.wordAt s.pc.toNat) = .ok i) (hx : exec i s = .next t) : step s = .next (finish i s t) := by
  unfold step
  rw [hr, fetch_eq_ok ha hd]
  simp only [hx]

theorem running_of_step {s u : State} (h : step s = .next u) : s.run = .running := by
  cases hr : s.run with
  | running => rfl
  | halted r info => unfold step at h; rw [hr] at h; cases h

/-- Everything a step can do: a halt at the fetch, an undefined variant, a halt in phase EXECUTE, or an instruction that
completes and is followed by the phases after it. -/
theorem step_cases {s u : State} (h : step s = .next u) :
    HaltsAt s u s.pc ∨
    (addrOk s.pc = true ∧ u = s.haltedFor .invalidOpcodeOrVariant ∧ ∀ i, decode (s.wordAt s.pc.toNat) ≠ .ok i) ∨
    (addrOk s.pc = true ∧ ∃ i, decode (s.wordAt s.pc.toNat) = .ok i ∧
      ((ExecHalts (opByte i) s u ∧ exec i s = .next u) ∨
       ∃ t, ExecEnds (opByte i) (fByte i) i.addr s t ∧ exec i s = .next t ∧ Finishes s i t u)) := by
  have hr := running_of_step h
  by_cases ha : addrOk s.pc = true
  · right
    cases hd : decode (s.wordAt s.pc.toNat) with
    | error e =>
      left
      refine ⟨ha, ?_, by simp⟩
      unfold step at h
      rw [hr] at h
      simp [fetch, memRead, ha, hd, invalidInstr, raiseHalt] at h
      exact h.symm
    | ok i =>
      right
      refine ⟨ha, i, rfl, ?_⟩
      have hx : exec i s = .next (settle ((Instr.shape i).run i.addr s)) := exec_eq_shape i s
      generalize settle ((Instr.shape i).run i.addr s) = t at hx
      rw [step_of_decode hr ha hd hx] at h
      injection h with h
      rcases exec_ends_or_halts hx with ht | ht
      · exact .inr ⟨t, ht, hx, h ▸ finishes_of_running (ht.run.trans hr)⟩
      · obtain ⟨r, info, hh⟩ := execHalts_halted ht
        rw [finish_of_halted hh] at h
        subst h
        exact .inl ⟨ht, hx⟩
  · left
    rw [Bool.not_eq_true] at ha
    refine ⟨addrOk_false ha, ?_⟩
    unfold step at h
    rw [hr] at h
    simp [fetch, memRead, ha, raiseHalt] at h
    exact h.symm

end Sys2Proof.Machine
end

