-- ==== Sys2Proof/Machine/Alphabet.lean ====
section
/-! DEFINITION. The alphabet (40_alu.md R164). No step reads it: the machine moves codes unchanged, and only the host maps
them to characters. -/

namespace Sys2Proof.Machine

/-- The characters of codes 0..55 (40_alu.md R164). -/
def alphabet : List String :=
  [" ", "A", "B", "C", "D", "E", "F", "G", "H", "I", "Δ"] ++
  ["J", "K", "L", "M", "N", "O", "P", "Q", "R", "Σ", "Π"] ++
  ["S", "T", "U", "V", "W", "X", "Y", "Z"] ++
  ["0", "1", "2", "3", "4", "5", "6", "7", "8", "9"] ++
  [".", ",", "(", ")", "+", "-", "*", "/", "=", "$", "<", ">", "@", ";", ":", "'"]

/-- The character of a code; `none` is the "unknown" placeholder of codes 56..63, never an error (40_alu.md R164). -/
def charOfCode (c : Byte) : Option String := alphabet[c.toNat]?

end Sys2Proof.Machine
end

