-- ==== Sys2Proof/Tests/Slice0.lean ====
section
/-! SUPPORT. Tests of well-formedness, decoding and single steps, and a witness for each obligation. Every expected value
is the spec's: a vector V<n> of 95_test_vectors.md, the encoding tables of 30_encoding.md, or a rule that the comment
names. The last part holds, for each obligation with hypotheses, a state and operands that meet them. -/

namespace Sys2Proof.Tests

open Sys2Proof.Machine

set_option Elab.async false

/-! ### Helpers -/

/-- A machine after reset, about to run one word at 3000. -/
def boot (w : Word) : State := { State.reset.putWord 3000 w with pc := 3000 }

/-- The state after one step. -/
def after (s : State) : State :=
  match step s with
  | .next t => t
  | _ => s

/-- A unit with a total of its own and no error. -/
def unitRec (u : Nat) (addr : Int) (op : IoOp) (total timer : Nat) : DevRec :=
  { addr := addr, field := BitVec.ofNat 6 u, op := op, total := total, timer := timer, lastError := none }

/-- A device table in which only unit `u` is not idle. -/
def devices (u : Nat) (addr : Int) (op : IoOp) (total timer : Nat) : List DevRec :=
  (List.range 21).map fun v => if v = u then unitRec v addr op total timer else unitRec v 0 .input 1 0

/-- The host's answer of the vectors V8: a card that begins HELLO. -/
def card : HostAnswer := { codes := [8, 5, 13, 13, 16] ++ List.replicate 75 0 }

/-! ### WellFormed refuses (30_encoding.md R103, R106, 49_io.md R507) -/

theorem test_illformed_index : (Instr.nop ⟨.plus, 0, 7⟩ 0).wellFormed = false := rfl
theorem test_illformed_index_variant : (Instr.hlt ⟨.plus, 0, 63⟩).wellFormed = false := rfl
theorem test_illformed_field_right : (Instr.lda ⟨.plus, 0, 0⟩ 6).wellFormed = false := rfl
theorem test_illformed_field_order : (Instr.cmpx ⟨.plus, 0, 0⟩ 8).wellFormed = false := rfl
theorem test_illformed_field_left : (Instr.stz ⟨.plus, 0, 0⟩ 55).wellFormed = false := rfl
theorem test_illformed_unit : (Instr.jbus ⟨.plus, 0, 0⟩ 21).wellFormed = false := rfl
theorem test_illformed_control_reserved : (Instr.ioc ⟨.plus, 0, 0⟩ 8).wellFormed = false := rfl
theorem test_illformed_input_printer : (Instr.inp ⟨.plus, 0, 0⟩ 18).wellFormed = false := rfl
theorem test_illformed_output_card : (Instr.out ⟨.plus, 0, 0⟩ 16).wellFormed = false := rfl
theorem test_wellformed_samples :
    (Instr.jred ⟨.minus, 0, 6⟩ 20).wellFormed = true ∧ (Instr.move ⟨.plus, 0, 0⟩ 63).wellFormed = true ∧
    (Instr.ld3n ⟨.plus, 0, 0⟩ 45).wellFormed = true ∧ (Instr.nop ⟨.plus, 0, 0⟩ 63).wellFormed = true :=
  ⟨rfl, rfl, rfl, rfl⟩

/-! ### Decoding: words written out from R101, R108 and R109 -/

theorem test_decode_arith :
    decode ⟨.plus, 15, 40, 0, 5, 1⟩ = .ok (.add ⟨.plus, 1000, 0⟩ 5) ∧
    decode ⟨.plus, 0, 0, 0, 13, 2⟩ = .ok (.sub ⟨.plus, 0, 0⟩ 13) ∧
    decode ⟨.plus, 0, 0, 0, 9, 3⟩ = .ok (.mul ⟨.plus, 0, 0⟩ 9) ∧
    decode ⟨.minus, 63, 63, 6, 5, 4⟩ = .ok (.div ⟨.minus, 4095, 6⟩ 5) := ⟨rfl, rfl, rfl, rfl⟩
theorem test_decode_special :
    decode ⟨.plus, 0, 0, 0, 0, 5⟩ = .ok (.num ⟨.plus, 0, 0⟩) ∧
    decode ⟨.plus, 0, 0, 0, 1, 5⟩ = .ok (.char ⟨.plus, 0, 0⟩) ∧
    decode ⟨.plus, 0, 0, 0, 2, 5⟩ = .ok (.hlt ⟨.plus, 0, 0⟩) ∧
    decode ⟨.plus, 0, 0, 0, 63, 0⟩ = .ok (.nop ⟨.plus, 0, 0⟩ 63) := ⟨rfl, rfl, rfl, rfl⟩
theorem test_decode_shift_move :
    decode ⟨.plus, 0, 2, 0, 0, 6⟩ = .ok (.sla ⟨.plus, 2, 0⟩) ∧ decode ⟨.plus, 0, 2, 0, 1, 6⟩ = .ok (.sra ⟨.plus, 2, 0⟩) ∧
    decode ⟨.plus, 0, 2, 0, 2, 6⟩ = .ok (.slax ⟨.plus, 2, 0⟩) ∧ decode ⟨.plus, 0, 2, 0, 4, 6⟩ = .ok (.slc ⟨.plus, 2, 0⟩) ∧
    decode ⟨.plus, 0, 2, 0, 5, 6⟩ = .ok (.src ⟨.plus, 2, 0⟩) ∧
    decode ⟨.plus, 15, 40, 0, 3, 7⟩ = .ok (.move ⟨.plus, 1000, 0⟩ 3) := ⟨rfl, rfl, rfl, rfl, rfl, rfl⟩
theorem test_decode_load_store :
    decode ⟨.plus, 0, 1, 0, 5, 9⟩ = .ok (.ld1 ⟨.plus, 1, 0⟩ 5) ∧ decode ⟨.plus, 0, 1, 0, 5, 15⟩ = .ok (.ldx ⟨.plus, 1, 0⟩ 5) ∧
    decode ⟨.plus, 0, 1, 0, 5, 16⟩ = .ok (.ldan ⟨.plus, 1, 0⟩ 5) ∧ decode ⟨.plus, 0, 1, 0, 5, 22⟩ = .ok (.ld6n ⟨.plus, 1, 0⟩ 5) ∧
    decode ⟨.plus, 0, 1, 0, 5, 31⟩ = .ok (.stx ⟨.plus, 1, 0⟩ 5) ∧ decode ⟨.plus, 0, 1, 0, 2, 32⟩ = .ok (.stj ⟨.plus, 1, 0⟩ 2) ∧
    decode ⟨.plus, 0, 1, 0, 5, 33⟩ = .ok (.stz ⟨.plus, 1, 0⟩ 5) := ⟨rfl, rfl, rfl, rfl, rfl, rfl, rfl⟩
theorem test_decode_jump :
    decode ⟨.plus, 1, 0, 0, 0, 39⟩ = .ok (.jmp ⟨.plus, 64, 0⟩) ∧ decode ⟨.plus, 1, 0, 0, 1, 39⟩ = .ok (.jsj ⟨.plus, 64, 0⟩) ∧
    decode ⟨.plus, 1, 0, 0, 3, 39⟩ = .ok (.jnov ⟨.plus, 64, 0⟩) ∧ decode ⟨.plus, 1, 0, 0, 7, 39⟩ = .ok (.jge ⟨.plus, 64, 0⟩) ∧
    decode ⟨.plus, 1, 0, 0, 0, 40⟩ = .ok (.jan ⟨.plus, 64, 0⟩) ∧ decode ⟨.plus, 1, 0, 0, 5, 46⟩ = .ok (.j6np ⟨.plus, 64, 0⟩) ∧
    decode ⟨.plus, 1, 0, 0, 3, 47⟩ = .ok (.jxnn ⟨.plus, 64, 0⟩) := ⟨rfl, rfl, rfl, rfl, rfl, rfl, rfl⟩
theorem test_decode_address_transfer_compare :
    decode ⟨.minus, 0, 0, 0, 2, 48⟩ = .ok (.enta ⟨.minus, 0, 0⟩) ∧ decode ⟨.plus, 0, 1, 0, 0, 49⟩ = .ok (.inc1 ⟨.plus, 1, 0⟩) ∧
    decode ⟨.plus, 0, 1, 0, 1, 54⟩ = .ok (.dec6 ⟨.plus, 1, 0⟩) ∧ decode ⟨.plus, 0, 1, 0, 3, 55⟩ = .ok (.ennx ⟨.plus, 1, 0⟩) ∧
    decode ⟨.plus, 0, 1, 0, 5, 56⟩ = .ok (.cmpa ⟨.plus, 1, 0⟩ 5) ∧ decode ⟨.plus, 0, 1, 0, 5, 63⟩ = .ok (.cmpx ⟨.plus, 1, 0⟩ 5) :=
  ⟨rfl, rfl, rfl, rfl, rfl, rfl⟩
theorem test_decode_io :
    decode ⟨.plus, 31, 16, 0, 16, 34⟩ = .ok (.jbus ⟨.plus, 2000, 0⟩ 16) ∧
    decode ⟨.plus, 0, 0, 0, 0, 35⟩ = .ok (.ioc ⟨.plus, 0, 0⟩ 0) ∧
    decode ⟨.plus, 15, 40, 0, 16, 36⟩ = .ok (.inp ⟨.plus, 1000, 0⟩ 16) ∧
    decode ⟨.plus, 31, 16, 0, 20, 38⟩ = .ok (.jred ⟨.plus, 2000, 0⟩ 20) := ⟨rfl, rfl, rfl, rfl⟩
theorem test_decode_undefined_variants :
    decode ⟨.plus, 0, 0, 0, 6, 6⟩ = .error (.undefinedVariant 6 6) ∧
    decode ⟨.plus, 0, 0, 0, 10, 39⟩ = .error (.undefinedVariant 39 10) ∧
    decode ⟨.plus, 0, 0, 0, 6, 40⟩ = .error (.undefinedVariant 40 6) ∧
    decode ⟨.plus, 0, 0, 0, 4, 55⟩ = .error (.undefinedVariant 55 4) := ⟨rfl, rfl, rfl, rfl⟩

/-- Packed words of 95_test_vectors.md (V1.1, V1.20, V8.16). -/
theorem test_decode_packed :
    decodeTableWord 32 0x1F400148 = some (.lda ⟨.plus, 2000, 0⟩ 5) ∧
    decodeTableWord 32 0x40000148 = some (.lda ⟨.minus, 0, 0⟩ 5) ∧
    decodeTableWord 32 0x3E580424 = some (.inp ⟨.plus, 3990, 0⟩ 16) ∧ decodeTableWord 32 0x80000000 = none := by
  decide +kernel

/-! ### One step: the vectors of 95_test_vectors.md -/


theorem test_V1_3_lda_2000_3_5 :
    let t := after ((boot ⟨.plus, 31, 16, 0, 29, 8⟩).putWord 2000 ⟨.minus, 1, 2, 3, 4, 5⟩)
    t.a = ⟨.plus, 0, 0, 3, 4, 5⟩ ∧ t.pc = 3001 := by decide +kernel

theorem test_V1_19_lda_0_1_i1_neg1 :
    let t := after ({ boot ⟨.plus, 0, 0, 1, 5, 8⟩ with i1 := ⟨.minus, 0, 0, 0, 0, 1⟩ })
    t.pc = 3000 ∧ t.run = .halted .illegalAddress { pc := 3000, addr := some (-1) } := by decide +kernel

theorem test_V1_11_ldan_2000_3_3 :
    let t := after ((boot ⟨.plus, 31, 16, 0, 27, 16⟩).putWord 2000 ⟨.minus, 1, 2, 3, 4, 5⟩)
    t.a = ⟨.minus, 0, 0, 0, 0, 3⟩ ∧ t.pc = 3001 := by decide +kernel

theorem test_V1_13_ld1_2000 :
    let t := after ((boot ⟨.plus, 31, 16, 0, 5, 9⟩).putWord 2000 ⟨.plus, 0, 0, 1, 0, 0⟩)
    t.i1 = ⟨.plus, 0, 0, 1, 0, 0⟩ ∧ t.pc = 3001 ∧ t.run = .halted .registerOverflow { pc := 3000, reg := some .I1 } := by decide +kernel

theorem test_V1_14_ld6n_2000_4_5 :
    let t := after ((boot ⟨.plus, 31, 16, 0, 37, 22⟩).putWord 2000 ⟨.minus, 1, 2, 3, 4, 5⟩)
    t.i6 = ⟨.minus, 0, 0, 0, 4, 5⟩ ∧ t.pc = 3001 := by decide +kernel

theorem test_V1_25_sta_2000_2_3 :
    let t := after ({ (boot ⟨.plus, 31, 16, 0, 19, 24⟩).putWord 2000 ⟨.minus, 1, 2, 3, 4, 5⟩ with a := ⟨.plus, 6, 7, 8, 9, 0⟩ })
    t.wordAt 2000 = ⟨.minus, 1, 9, 0, 4, 5⟩ ∧ t.pc = 3001 := by decide +kernel

theorem test_V1_34_sta_3000_5_5 :
    let t := after ({ boot ⟨.plus, 46, 56, 0, 45, 24⟩ with a := ⟨.plus, 0, 0, 0, 0, 63⟩ })
    t.wordAt 3000 = ⟨.plus, 46, 56, 0, 45, 63⟩ ∧ t.pc = 3001 := by decide +kernel

theorem test_V1_30_stj_2000 :
    let t := after ({ (boot ⟨.plus, 31, 16, 0, 2, 32⟩).putWord 2000 ⟨.minus, 1, 2, 3, 4, 5⟩ with j := ⟨.plus, 0, 0, 0, 46, 57⟩ })
    t.wordAt 2000 = ⟨.plus, 46, 57, 3, 4, 5⟩ ∧ t.pc = 3001 := by decide +kernel

theorem test_V1_33_stz_2000_1_5 :
    let t := after ((boot ⟨.plus, 31, 16, 0, 13, 33⟩).putWord 2000 ⟨.minus, 1, 2, 3, 4, 5⟩)
    t.wordAt 2000 = ⟨.minus, 0, 0, 0, 0, 0⟩ ∧ t.pc = 3001 := by decide +kernel

theorem test_V2_3_add_2000 :
    let t := after ({ (boot ⟨.plus, 31, 16, 0, 5, 1⟩).putWord 2000 ⟨.plus, 0, 0, 0, 0, 5⟩ with a := ⟨.minus, 0, 0, 0, 0, 5⟩ })
    t.a = ⟨.minus, 0, 0, 0, 0, 0⟩ ∧ t.pc = 3001 := by decide +kernel

theorem test_V2_5_add_2000 :
    let t := after ({ (boot ⟨.plus, 31, 16, 0, 5, 1⟩).putWord 2000 ⟨.minus, 0, 0, 0, 0, 2⟩ with a := ⟨.minus, 63, 63, 63, 63, 63⟩ })
    t.a = ⟨.minus, 0, 0, 0, 0, 1⟩ ∧ t.ovf = true ∧ t.pc = 3001 := by decide +kernel

theorem test_V2_14_sub_2000 :
    let t := after ({ (boot ⟨.plus, 31, 16, 0, 5, 2⟩).putWord 2000 ⟨.plus, 0, 0, 0, 0, 1⟩ with a := ⟨.minus, 63, 63, 63, 63, 63⟩ })
    t.a = ⟨.minus, 0, 0, 0, 0, 0⟩ ∧ t.ovf = true ∧ t.pc = 3001 := by decide +kernel

theorem test_V2_18_mul_2000 :
    let t := after ({ (boot ⟨.plus, 31, 16, 0, 5, 3⟩).putWord 2000 ⟨.minus, 63, 63, 63, 63, 63⟩ with a := ⟨.minus, 63, 63, 63, 63, 63⟩ })
    t.a = ⟨.plus, 63, 63, 63, 63, 62⟩ ∧ t.x = ⟨.plus, 0, 0, 0, 0, 1⟩ ∧ t.pc = 3001 := by decide +kernel

theorem test_V2_19_mul_2000 :
    let t := after ({ (boot ⟨.plus, 31, 16, 0, 5, 3⟩).putWord 2000 ⟨.minus, 0, 0, 0, 0, 0⟩ with a := ⟨.plus, 0, 0, 0, 0, 5⟩ })
    t.a = ⟨.minus, 0, 0, 0, 0, 0⟩ ∧ t.x = ⟨.minus, 0, 0, 0, 0, 0⟩ ∧ t.pc = 3001 := by decide +kernel

theorem test_V2_23_div_2000 :
    let t := after ({ (boot ⟨.plus, 31, 16, 0, 5, 4⟩).putWord 2000 ⟨.plus, 0, 0, 0, 0, 5⟩ with a := ⟨.minus, 0, 0, 0, 0, 0⟩, x := ⟨.plus, 0, 0, 0, 0, 17⟩ })
    t.a = ⟨.minus, 0, 0, 0, 0, 3⟩ ∧ t.x = ⟨.minus, 0, 0, 0, 0, 2⟩ ∧ t.pc = 3001 := by decide +kernel

theorem test_V2_27_div_2000 :
    let t := after ({ (boot ⟨.plus, 31, 16, 0, 5, 4⟩).putWord 2000 ⟨.plus, 0, 0, 0, 0, 0⟩ with a := ⟨.plus, 0, 0, 0, 0, 1⟩, x := ⟨.plus, 0, 0, 0, 0, 2⟩ })
    t.ovf = true ∧ t.pc = 3000 ∧ t.run = .halted .divisionFailure { pc := 3000 } := by decide +kernel

theorem test_V3_2_num :
    let t := after ({ boot ⟨.plus, 0, 0, 0, 0, 5⟩ with a := ⟨.minus, 0, 0, 31, 32, 39⟩, x := ⟨.plus, 37, 57, 47, 30, 30⟩ })
    t.a = ⟨.minus, 0, 49, 32, 24, 36⟩ ∧ t.pc = 3001 := by decide +kernel

theorem test_V3_3_num :
    let t := after ({ boot ⟨.plus, 0, 0, 0, 0, 5⟩ with a := ⟨.plus, 39, 39, 39, 39, 39⟩, x := ⟨.plus, 39, 39, 39, 39, 39⟩ })
    t.a = ⟨.plus, 20, 2, 62, 15, 63⟩ ∧ t.ovf = true ∧ t.pc = 3001 := by decide +kernel

theorem test_V3_5_char :
    let t := after ({ boot ⟨.plus, 0, 0, 0, 1, 5⟩ with a := ⟨.minus, 0, 49, 32, 24, 36⟩, x := ⟨.plus, 1, 2, 3, 4, 5⟩ })
    t.a = ⟨.minus, 30, 30, 31, 32, 39⟩ ∧ t.x = ⟨.plus, 37, 37, 37, 30, 30⟩ ∧ t.pc = 3001 := by decide +kernel

theorem test_V3_7_char :
    let t := after ({ boot ⟨.plus, 0, 0, 0, 1, 5⟩ with a := ⟨.plus, 63, 63, 63, 63, 63⟩ })
    t.a = ⟨.plus, 31, 30, 37, 33, 37⟩ ∧ t.x = ⟨.plus, 34, 31, 38, 32, 33⟩ ∧ t.pc = 3001 := by decide +kernel

theorem test_V3_8_hlt :
    let t := after (boot ⟨.plus, 0, 0, 0, 2, 5⟩)
    t.pc = 3001 ∧ t.run = .halted .halt { pc := 3000 } := by decide +kernel

theorem test_V3_12_nop_0_7 :
    let t := after (boot ⟨.plus, 0, 0, 7, 0, 0⟩)
    t.pc = 3000 ∧ t.run = .halted .invalidOpcodeOrVariant { pc := 3000 } := by decide +kernel

theorem test_V4_2_sra_1 :
    let t := after ({ boot ⟨.plus, 0, 1, 0, 1, 6⟩ with a := ⟨.plus, 1, 2, 3, 4, 5⟩, x := ⟨.minus, 6, 7, 8, 9, 10⟩ })
    t.a = ⟨.plus, 0, 1, 2, 3, 4⟩ ∧ t.pc = 3001 := by decide +kernel

theorem test_V4_3_slax_1 :
    let t := after ({ boot ⟨.plus, 0, 1, 0, 2, 6⟩ with a := ⟨.plus, 1, 2, 3, 4, 5⟩, x := ⟨.minus, 6, 7, 8, 9, 10⟩ })
    t.a = ⟨.plus, 2, 3, 4, 5, 6⟩ ∧ t.x = ⟨.minus, 7, 8, 9, 10, 0⟩ ∧ t.pc = 3001 := by decide +kernel

theorem test_V4_4_srax_1 :
    let t := after ({ boot ⟨.plus, 0, 1, 0, 3, 6⟩ with a := ⟨.plus, 1, 2, 3, 4, 5⟩, x := ⟨.minus, 6, 7, 8, 9, 10⟩ })
    t.a = ⟨.plus, 0, 1, 2, 3, 4⟩ ∧ t.x = ⟨.minus, 5, 6, 7, 8, 9⟩ ∧ t.pc = 3001 := by decide +kernel

theorem test_V4_5_slc_3 :
    let t := after ({ boot ⟨.plus, 0, 3, 0, 4, 6⟩ with a := ⟨.plus, 1, 2, 3, 4, 5⟩, x := ⟨.minus, 6, 7, 8, 9, 10⟩ })
    t.a = ⟨.plus, 4, 5, 6, 7, 8⟩ ∧ t.x = ⟨.minus, 9, 10, 1, 2, 3⟩ ∧ t.pc = 3001 := by decide +kernel

theorem test_V4_8_sla_neg0 :
    let t := after ({ boot ⟨.minus, 0, 0, 0, 0, 6⟩ with a := ⟨.plus, 1, 2, 3, 4, 5⟩, x := ⟨.minus, 6, 7, 8, 9, 10⟩ })
    t.pc = 3001 := by decide +kernel

theorem test_V4_14_src_11 :
    let t := after ({ boot ⟨.plus, 0, 11, 0, 5, 6⟩ with a := ⟨.plus, 1, 2, 3, 4, 5⟩, x := ⟨.minus, 6, 7, 8, 9, 10⟩ })
    t.a = ⟨.plus, 10, 1, 2, 3, 4⟩ ∧ t.x = ⟨.minus, 5, 6, 7, 8, 9⟩ ∧ t.pc = 3001 := by decide +kernel

theorem test_V4_16_sla_neg1 :
    let t := after ({ boot ⟨.minus, 0, 1, 0, 0, 6⟩ with a := ⟨.plus, 1, 2, 3, 4, 5⟩, x := ⟨.minus, 6, 7, 8, 9, 10⟩ })
    t.pc = 3000 ∧ t.run = .halted .invalidOpcodeOrVariant { pc := 3000 } := by decide +kernel

theorem test_V4_22_move_1000_3 :
    let t := after ({ (boot ⟨.plus, 15, 40, 0, 3, 7⟩).putWord 1000 ⟨.plus, 0, 0, 0, 0, 9⟩ with i1 := ⟨.plus, 0, 0, 0, 15, 41⟩ })
    t.i1 = ⟨.plus, 0, 0, 0, 15, 44⟩ ∧ t.wordAt 1001 = ⟨.plus, 0, 0, 0, 0, 9⟩ ∧ t.wordAt 1002 = ⟨.plus, 0, 0, 0, 0, 9⟩ ∧ t.wordAt 1003 = ⟨.plus, 0, 0, 0, 0, 9⟩ ∧ t.pc = 3001 := by decide +kernel

theorem test_V4_23_move_1000_3 :
    let t := after ({ (((boot ⟨.plus, 15, 40, 0, 3, 7⟩).putWord 1000 ⟨.plus, 0, 0, 0, 0, 1⟩).putWord 1001 ⟨.plus, 0, 0, 0, 0, 2⟩).putWord 1002 ⟨.plus, 0, 0, 0, 0, 3⟩ with i1 := ⟨.plus, 0, 0, 0, 62, 30⟩ })
    t.wordAt 3998 = ⟨.plus, 0, 0, 0, 0, 1⟩ ∧ t.wordAt 3999 = ⟨.plus, 0, 0, 0, 0, 2⟩ ∧ t.pc = 3000 ∧ t.run = .halted .illegalAddress { pc := 3000, addr := some 4000 } := by decide +kernel

theorem test_V5_2_cmpa_2000 :
    let t := after ({ (boot ⟨.plus, 31, 16, 0, 5, 56⟩).putWord 2000 ⟨.minus, 0, 0, 0, 0, 0⟩ with a := ⟨.plus, 0, 0, 0, 0, 0⟩, ci := .less })
    t.ci = .equal ∧ t.pc = 3001 := by decide +kernel

theorem test_V5_4_cmpa_2000_1_5 :
    let t := after ({ (boot ⟨.plus, 31, 16, 0, 13, 56⟩).putWord 2000 ⟨.plus, 0, 0, 0, 0, 5⟩ with a := ⟨.minus, 0, 0, 0, 0, 5⟩, ci := .less })
    t.ci = .equal ∧ t.pc = 3001 := by decide +kernel

theorem test_V5_6_cmpx_2000_4_5 :
    let t := after ({ (boot ⟨.plus, 31, 16, 0, 37, 63⟩).putWord 2000 ⟨.minus, 0, 0, 0, 0, 2⟩ with x := ⟨.plus, 9, 9, 9, 0, 1⟩ })
    t.ci = .less ∧ t.pc = 3001 := by decide +kernel

theorem test_V5_8_cmp6_2000 :
    let t := after ({ (boot ⟨.plus, 31, 16, 0, 5, 62⟩).putWord 2000 ⟨.minus, 0, 0, 0, 0, 4⟩ with i6 := ⟨.minus, 0, 0, 0, 0, 3⟩ })
    t.ci = .greater ∧ t.pc = 3001 := by decide +kernel

theorem test_V6_1_jmp_2000 :
    let t := after (boot ⟨.plus, 31, 16, 0, 0, 39⟩)
    t.j = ⟨.plus, 0, 0, 0, 46, 57⟩ ∧ t.pc = 2000 := by decide +kernel

theorem test_V6_37_jmp_0_1_i1_neg5 :
    let t := after ({ boot ⟨.plus, 0, 0, 1, 0, 39⟩ with i1 := ⟨.minus, 0, 0, 0, 0, 5⟩ })
    t.j = ⟨.plus, 0, 0, 0, 46, 57⟩ ∧ t.pc = -5 := by decide +kernel

theorem test_V6_2_jsj_2000 :
    let t := after ({ boot ⟨.plus, 31, 16, 0, 1, 39⟩ with j := ⟨.plus, 0, 0, 0, 1, 13⟩ })
    t.pc = 2000 := by decide +kernel

theorem test_V6_3_jov_2000 :
    let t := after ({ boot ⟨.plus, 31, 16, 0, 2, 39⟩ with ovf := true })
    t.j = ⟨.plus, 0, 0, 0, 46, 57⟩ ∧ t.ovf = false ∧ t.pc = 2000 := by decide +kernel

theorem test_V6_4_jov_2000 :
    let t := after (boot ⟨.plus, 31, 16, 0, 2, 39⟩)
    t.pc = 3001 := by decide +kernel

theorem test_V6_5_jnov_2000 :
    let t := after (boot ⟨.plus, 31, 16, 0, 3, 39⟩)
    t.j = ⟨.plus, 0, 0, 0, 46, 57⟩ ∧ t.pc = 2000 := by decide +kernel

theorem test_V6_6_jnov_2000 :
    let t := after ({ boot ⟨.plus, 31, 16, 0, 3, 39⟩ with ovf := true })
    t.ovf = false ∧ t.pc = 3001 := by decide +kernel

theorem test_V6_9_jl_2000 :
    let t := after ({ boot ⟨.plus, 31, 16, 0, 4, 39⟩ with ci := .greater })
    t.pc = 3001 := by decide +kernel

theorem test_V6_11_je_2000 :
    let t := after ({ boot ⟨.plus, 31, 16, 0, 5, 39⟩ with ci := .equal })
    t.j = ⟨.plus, 0, 0, 0, 46, 57⟩ ∧ t.pc = 2000 := by decide +kernel

theorem test_V6_15_jg_2000 :
    let t := after ({ boot ⟨.plus, 31, 16, 0, 6, 39⟩ with ci := .greater })
    t.j = ⟨.plus, 0, 0, 0, 46, 57⟩ ∧ t.pc = 2000 := by decide +kernel

theorem test_V6_16_jge_2000 :
    let t := after ({ boot ⟨.plus, 31, 16, 0, 7, 39⟩ with ci := .less })
    t.pc = 3001 := by decide +kernel

theorem test_V6_19_jne_2000 :
    let t := after ({ boot ⟨.plus, 31, 16, 0, 8, 39⟩ with ci := .less })
    t.j = ⟨.plus, 0, 0, 0, 46, 57⟩ ∧ t.pc = 2000 := by decide +kernel

theorem test_V6_23_jle_2000 :
    let t := after ({ boot ⟨.plus, 31, 16, 0, 9, 39⟩ with ci := .equal })
    t.j = ⟨.plus, 0, 0, 0, 46, 57⟩ ∧ t.pc = 2000 := by decide +kernel

theorem test_V6_25_jan_2000 :
    let t := after ({ boot ⟨.plus, 31, 16, 0, 0, 40⟩ with a := ⟨.minus, 0, 0, 0, 0, 0⟩ })
    t.pc = 3001 := by decide +kernel

theorem test_V6_31_jan_2000 :
    let t := after ({ boot ⟨.plus, 31, 16, 0, 0, 40⟩ with a := ⟨.minus, 0, 0, 0, 0, 1⟩ })
    t.j = ⟨.plus, 0, 0, 0, 46, 57⟩ ∧ t.pc = 2000 := by decide +kernel

theorem test_V6_26_jaz_2000 :
    let t := after ({ boot ⟨.plus, 31, 16, 0, 1, 40⟩ with a := ⟨.minus, 0, 0, 0, 0, 0⟩ })
    t.j = ⟨.plus, 0, 0, 0, 46, 57⟩ ∧ t.pc = 2000 := by decide +kernel

theorem test_V6_27_jap_2000 :
    let t := after ({ boot ⟨.plus, 31, 16, 0, 2, 40⟩ with a := ⟨.minus, 0, 0, 0, 0, 0⟩ })
    t.pc = 3001 := by decide +kernel

theorem test_V6_28_jann_2000 :
    let t := after ({ boot ⟨.plus, 31, 16, 0, 3, 40⟩ with a := ⟨.minus, 0, 0, 0, 0, 0⟩ })
    t.j = ⟨.plus, 0, 0, 0, 46, 57⟩ ∧ t.pc = 2000 := by decide +kernel

theorem test_V6_29_janz_2000 :
    let t := after ({ boot ⟨.plus, 31, 16, 0, 4, 40⟩ with a := ⟨.minus, 0, 0, 0, 0, 0⟩ })
    t.pc = 3001 := by decide +kernel

theorem test_V6_30_janp_2000 :
    let t := after ({ boot ⟨.plus, 31, 16, 0, 5, 40⟩ with a := ⟨.minus, 0, 0, 0, 0, 0⟩ })
    t.j = ⟨.plus, 0, 0, 0, 46, 57⟩ ∧ t.pc = 2000 := by decide +kernel

theorem test_V6_33_j1p_2000 :
    let t := after ({ boot ⟨.plus, 31, 16, 0, 2, 41⟩ with i1 := ⟨.plus, 0, 0, 0, 0, 1⟩ })
    t.j = ⟨.plus, 0, 0, 0, 46, 57⟩ ∧ t.pc = 2000 := by decide +kernel

theorem test_V6_34_j6nz_2000 :
    let t := after ({ boot ⟨.plus, 31, 16, 0, 4, 46⟩ with i6 := ⟨.plus, 0, 0, 0, 0, 0⟩ })
    t.pc = 3001 := by decide +kernel

theorem test_V6_35_jxnn_2000 :
    let t := after ({ boot ⟨.plus, 31, 16, 0, 3, 47⟩ with x := ⟨.minus, 0, 0, 0, 0, 3⟩ })
    t.pc = 3001 := by decide +kernel

theorem test_V7_2_enta_neg0 :
    let t := after (boot ⟨.minus, 0, 0, 0, 2, 48⟩)
    t.a = ⟨.minus, 0, 0, 0, 0, 0⟩ ∧ t.pc = 3001 := by decide +kernel

theorem test_V7_4_enna_0 :
    let t := after (boot ⟨.plus, 0, 0, 0, 3, 48⟩)
    t.a = ⟨.minus, 0, 0, 0, 0, 0⟩ ∧ t.pc = 3001 := by decide +kernel

theorem test_V7_6_ent3_0_3_i3_neg0 :
    let t := after ({ boot ⟨.plus, 0, 0, 3, 2, 51⟩ with i3 := ⟨.minus, 0, 0, 0, 0, 0⟩ })
    t.i3 = ⟨.plus, 0, 0, 0, 0, 0⟩ ∧ t.pc = 3001 := by decide +kernel

theorem test_V7_8_enta_neg5_1_i1_5 :
    let t := after ({ boot ⟨.minus, 0, 5, 1, 2, 48⟩ with a := ⟨.minus, 0, 0, 0, 0, 7⟩, i1 := ⟨.plus, 0, 0, 0, 0, 5⟩ })
    t.a = ⟨.minus, 0, 0, 0, 0, 0⟩ ∧ t.pc = 3001 := by decide +kernel

theorem test_V7_9_inca_1 :
    let t := after ({ boot ⟨.plus, 0, 1, 0, 0, 48⟩ with a := ⟨.plus, 63, 63, 63, 63, 63⟩ })
    t.a = ⟨.plus, 0, 0, 0, 0, 0⟩ ∧ t.ovf = true ∧ t.pc = 3001 := by decide +kernel

theorem test_V7_11_deca_1 :
    let t := after ({ boot ⟨.plus, 0, 1, 0, 1, 48⟩ with a := ⟨.minus, 63, 63, 63, 63, 63⟩ })
    t.a = ⟨.minus, 0, 0, 0, 0, 0⟩ ∧ t.ovf = true ∧ t.pc = 3001 := by decide +kernel

theorem test_V7_12_dec1_5 :
    let t := after ({ boot ⟨.plus, 0, 5, 0, 1, 49⟩ with i1 := ⟨.plus, 0, 0, 0, 0, 3⟩ })
    t.i1 = ⟨.minus, 0, 0, 0, 0, 2⟩ ∧ t.pc = 3001 := by decide +kernel

theorem test_V7_13_inc1_4095 :
    let t := after ({ boot ⟨.plus, 63, 63, 0, 0, 49⟩ with i1 := ⟨.plus, 0, 0, 0, 0, 1⟩ })
    t.i1 = ⟨.plus, 0, 0, 1, 0, 0⟩ ∧ t.pc = 3001 ∧ t.run = .halted .registerOverflow { pc := 3000, reg := some .I1 } := by decide +kernel

theorem test_V7_15_ennx_4095 :
    let t := after (boot ⟨.plus, 63, 63, 0, 3, 55⟩)
    t.x = ⟨.minus, 0, 0, 0, 63, 63⟩ ∧ t.pc = 3001 := by decide +kernel

theorem test_V7_16_incx_0_6_i6_4095 :
    let t := after ({ boot ⟨.plus, 63, 63, 6, 0, 55⟩ with x := ⟨.plus, 0, 0, 0, 0, 1⟩, i6 := ⟨.plus, 0, 0, 0, 63, 63⟩ })
    t.x = ⟨.plus, 0, 0, 1, 63, 63⟩ ∧ t.pc = 3001 := by decide +kernel

theorem test_V8_3_in_1000_16 :
    let t := after ({ boot ⟨.plus, 15, 40, 0, 16, 36⟩ with devs := devices 16 1200 .input 10 8, hostIn := [card] })
    t.wordAt 1200 = ⟨.plus, 8, 5, 13, 13, 16⟩ ∧ (t.dev 16).addr = 1000 ∧ t.pc = 3001 := by decide +kernel

theorem test_V8_5_out_1000_16 :
    let t := after ({ boot ⟨.plus, 15, 40, 0, 16, 37⟩ with hostIn := [card] })
    t.pc = 3000 ∧ t.run = .halted .invalidOpcodeOrVariant { pc := 3000 } := by decide +kernel

theorem test_V8_9_jred_2000_17 :
    let t := after ({ boot ⟨.plus, 31, 16, 0, 17, 38⟩ with hostIn := [card] })
    t.j = ⟨.plus, 0, 0, 0, 46, 57⟩ ∧ t.pc = 2000 := by decide +kernel

theorem test_V8_11_jbus_2000_18 :
    let t := after ({ boot ⟨.plus, 31, 16, 0, 18, 34⟩ with devs := devices 18 1000 .output 10 2, hostIn := [card] })
    t.j = ⟨.plus, 0, 0, 0, 46, 57⟩ ∧ (t.dev 18).timer = 1 ∧ t.pc = 2000 := by decide +kernel

theorem test_V8_12_jred_2000_18 :
    let t := after ({ boot ⟨.plus, 31, 16, 0, 18, 38⟩ with devs := devices 18 1000 .output 10 2, hostIn := [card] })
    (t.dev 18).timer = 1 ∧ t.pc = 3001 := by decide +kernel

theorem test_V8_13_nop :
    let t := after ({ boot ⟨.plus, 0, 0, 0, 0, 0⟩ with devs := devices 16 1000 .input 10 6, hostIn := [card] })
    t.wordAt 1000 = ⟨.plus, 8, 5, 13, 13, 16⟩ ∧ (t.dev 16).timer = 5 ∧ t.pc = 3001 := by decide +kernel

theorem test_V8_15_nop :
    let t := after ({ boot ⟨.plus, 0, 0, 0, 0, 0⟩ with devs := devices 16 1000 .input 10 6, hostIn := [{ err := some "end of data" }] })
    (t.dev 16).timer = 5 ∧ (t.dev 16).lastError = some "end of data" ∧ t.pc = 3001 ∧ t.run = .halted .deviceError { pc := 3000, unit := some 16, text := some "end of data" } := by decide +kernel

theorem test_V8_18_ioc_0_16 :
    let t := after ({ boot ⟨.plus, 0, 0, 0, 16, 35⟩ with devs := devices 16 1000 .input 10 9, hostIn := [card, { }] })
    t.wordAt 1000 = ⟨.plus, 8, 5, 13, 13, 16⟩ ∧ (t.dev 16).timer = 0 ∧ t.pc = 3001 := by decide +kernel

theorem test_V8_19_ioc_0_17 :
    let t := after ({ boot ⟨.plus, 0, 0, 0, 17, 35⟩ with hostIn := [card] })
    t.pc = 3000 ∧ t.run = .halted .invalidOpcodeOrVariant { pc := 3000 } := by decide +kernel

theorem test_V8_22_in_1000_16 :
    let t := after ({ boot ⟨.plus, 15, 40, 0, 16, 36⟩ with devs := devices 16 3990 .input 10 8, hostIn := [card] })
    (t.dev 16).lastError = some "bad target address" ∧ t.pc = 3000 ∧ t.run = .halted .deviceError { pc := 3000, unit := some 16, text := some "bad target address" } := by decide +kernel

theorem test_V8_23_jbus_2000_16 :
    let t := after ({ boot ⟨.plus, 31, 16, 0, 16, 34⟩ with devs := devices 16 1000 .input 10 6, hostIn := [card] })
    t.j = ⟨.plus, 0, 0, 0, 46, 57⟩ ∧ t.wordAt 1000 = ⟨.plus, 8, 5, 13, 13, 16⟩ ∧ (t.dev 16).timer = 5 ∧ t.pc = 2000 := by decide +kernel


/-! ### Every obligation with hypotheses has a state and operands that meet them -/

/-- No address, no index. -/
def here : Addr := ⟨.plus, 0, 0⟩

/-- The last address of memory. -/
def last : Addr := ⟨.plus, 3999, 0⟩

/-- The first number that is no address. -/
def outside : Addr := ⟨.plus, 4000, 0⟩

/-- A state with other values in every kind of state: I6 and I1 at the ends of their range, A, X, memory, flags. -/
def sample : State :=
  { (((State.reset.putWord 0 ⟨.minus, 1, 2, 3, 4, 5⟩).putWord 3999 ⟨.plus, 0, 0, 0, 0, 7⟩).putWord 1000
      ⟨.plus, 0, 0, 0, 0, 9⟩) with
    pc := 3999, a := ⟨.minus, 0, 0, 0, 0, 3⟩, x := ⟨.plus, 9, 8, 7, 6, 5⟩, i1 := ⟨.plus, 0, 0, 0, 62, 32⟩,
    i6 := ⟨.minus, 0, 0, 0, 63, 63⟩, ovf := true, ci := .less, devs := devices 18 100 .output 10 6,
    hostIn := [{ }, { }] }

theorem test_sample_operand_last :
    effAddr last sample = .ok ⟨.plus, 0, 0, 0, 62, 31⟩ ∧ fieldSpec 5 = some ⟨0, 5⟩ ∧
    addrOk (Word.val ⟨.plus, 0, 0, 0, 62, 31⟩) = true := ⟨rfl, rfl, by decide⟩

theorem test_sample_operand_first :
    effAddr here sample = .ok ⟨.plus, 0, 0, 0, 0, 0⟩ ∧ fieldSpec 45 = some ⟨5, 5⟩ ∧
    addrOk (Word.val ⟨.plus, 0, 0, 0, 0, 0⟩) = true := ⟨rfl, rfl, by decide⟩

/-- A device table with explicit totals, one pending unit. -/
theorem test_devices_ok {s : State} (h : s.devs = devices 18 100 .output 10 6) : ∀ u, u < numDevices → (s.dev u).Ok u := by
  intro u hu
  simp only [numDevices] at hu
  unfold State.dev
  rw [h]
  interval_cases u <;> exact ⟨by decide, by decide, by decide, by decide, by decide⟩

/-- A sample state about to run `w` at 3000. -/
def sampleAt (w : Word) : State := { sample.putWord 3000 w with pc := 3000 }

theorem test_sampleAt_inv (w : Word) (h : Memory.wf (sampleAt w).mem = true) : (sampleAt w).Inv :=
  ⟨h, rfl, rfl, rfl, test_devices_ok rfl, rfl, Nat.zero_le _, (by decide : (-8190 : Int) ≤ 3000),
    (by decide : (3000 : Int) ≤ 8190), fun _ r hr => (by unfold State.indexBounded; decide : sample.indexBounded) r hr⟩

theorem test_witness_EncodeOfDecoded : decode ⟨.minus, 63, 63, 6, 63, 63⟩ = .ok (.cmpx ⟨.minus, 4095, 6⟩ 63) := rfl

theorem test_witness_UndefinedVariantsHalt :
    (∀ w, (boot w).run = .running ∧ addrOk (boot w).pc = true) ∧
    ((boot ⟨.plus, 0, 0, 0, 3, 5⟩).wordAt 3000 = ⟨.plus, 0, 0, 0, 3, 5⟩ ∧ variantCount 5 = some 3) ∧
    ((boot ⟨.plus, 0, 0, 0, 63, 55⟩).wordAt 3000 = ⟨.plus, 0, 0, 0, 63, 55⟩ ∧ variantCount 55 = some 4) ∧
    ((boot ⟨.plus, 0, 0, 6, 6, 56⟩).wordAt 3000 = ⟨.plus, 0, 0, 6, 6, 56⟩) :=
  ⟨fun _ => ⟨rfl, rfl⟩, ⟨rfl, rfl⟩, ⟨rfl, rfl⟩, rfl⟩

theorem test_witness_EffectiveAddress :
    (⟨.minus, 4095, 0⟩ : Addr).idx.toNat = 0 ∧
    indexRegs[5]? = some .I6 ∧ (⟨.minus, 4095, 6⟩ : Addr).idx.toNat = 5 + 1 ∧ (sample.reg .I6).mag < idxLimit ∧
    indexRegs[0]? = some .I1 ∧ (⟨.plus, 0, 1⟩ : Addr).idx.toNat = 0 + 1 ∧ (sample.reg .I1).mag < idxLimit := by decide

theorem test_witness_IndexByteAboveSixHalts :
    (boot ⟨.plus, 0, 0, 7, 0, 0⟩).run = .running ∧ addrOk (boot ⟨.plus, 0, 0, 7, 0, 0⟩).pc = true ∧
    6 < ((boot ⟨.plus, 0, 0, 7, 0, 0⟩).wordAt (boot ⟨.plus, 0, 0, 7, 0, 0⟩).pc.toNat).b3.toNat :=
  ⟨rfl, rfl, by decide⟩

/-- The steps of the clauses of StepRunsTheDecodedInstruction: an ordinary one, one that halts in EXECUTE (DIV by zero),
one whose device update fails, and one whose register check fails. -/
theorem test_witness_StepRunsTheDecodedInstruction :
    ((boot ⟨.plus, 0, 0, 0, 0, 0⟩).run = .running ∧ addrOk (boot ⟨.plus, 0, 0, 0, 0, 0⟩).pc = true ∧
      decode ((boot ⟨.plus, 0, 0, 0, 0, 0⟩).wordAt 3000) = .ok (.nop here 0) ∧
      (after (boot ⟨.plus, 0, 0, 0, 0, 0⟩)).run = .running) ∧
    (decode ((boot ⟨.plus, 0, 0, 0, 5, 4⟩).wordAt 3000) = .ok (.div here 5) ∧
      (after (boot ⟨.plus, 0, 0, 0, 5, 4⟩)).run = .halted .divisionFailure { pc := 3000 }) ∧
    (∃ h, ioUpdate 3000 1 none { boot ⟨.plus, 0, 0, 0, 0, 0⟩ with devs := devices 16 3990 .input 10 6 } = .error h) ∧
    (∃ h, checkRegs 3000 { boot ⟨.plus, 0, 0, 0, 0, 0⟩ with i1 := ⟨.plus, 0, 0, 1, 0, 0⟩ } = .error h) :=
  ⟨⟨rfl, rfl, rfl, by decide +kernel⟩, ⟨rfl, by decide +kernel⟩, ⟨_, rfl⟩, ⟨_, rfl⟩⟩

theorem test_witness_FetchOutOfRangeHalts :
    (({ State.reset with pc := -1 } : State).run = .running ∧ ({ State.reset with pc := -1 } : State).pc < 0) ∧
    (({ State.reset with pc := 4000 } : State).run = .running ∧ 3999 < ({ State.reset with pc := 4000 } : State).pc) := by
  exact ⟨⟨rfl, by decide⟩, rfl, by decide⟩

theorem test_witness_StepExistsExactlyWhileRunning :
    (State.reset.haltedFor .halt).run ≠ .running ∧ State.reset.run = .running := ⟨by decide, rfl⟩

/-- I1 = 4096 is the first register and the least magnitude that halts; J is the last register. -/
theorem test_witness_RegisterCheckHalts :
    (∃ t t₁, decode ((boot ⟨.plus, 63, 63, 1, 2, 49⟩).wordAt 3000) = .ok (.ent1 ⟨.plus, 4095, 1⟩) ∧
      exec (.ent1 ⟨.plus, 4095, 1⟩) { boot ⟨.plus, 63, 63, 1, 2, 49⟩ with i1 := ⟨.plus, 0, 0, 0, 0, 1⟩ } = .next t ∧
      t.run = .running ∧ ioUpdate 3000 1 none t = .ok t₁ ∧ (t₁.reg .I1).mag = 4096) ∧
    [Reg.I1, .I2, .I3, .I4, .I5, .I6, .J] = [] ++ Reg.I1 :: [.I2, .I3, .I4, .I5, .I6, .J] ∧
    (∃ t t₁, exec (.nop here 0) { boot ⟨.plus, 0, 0, 0, 0, 0⟩ with j := ⟨.plus, 0, 0, 1, 0, 0⟩ } = .next t ∧
      t.run = .running ∧ ioUpdate 3000 1 none t = .ok t₁ ∧ (t₁.reg .J).mag = 4096 ∧
      ∀ q ∈ [Reg.I1, .I2, .I3, .I4, .I5, .I6], (t₁.reg q).mag < 4096) ∧
    [Reg.I1, .I2, .I3, .I4, .I5, .I6, .J] = [.I1, .I2, .I3, .I4, .I5, .I6] ++ Reg.J :: [] :=
  ⟨⟨_, _, rfl, rfl, rfl, rfl, by decide⟩, rfl, ⟨_, _, rfl, rfl, rfl, by decide, by decide⟩, rfl⟩

theorem test_witness_ProfilingRecord :
    ∃ t t₁, decode ((boot ⟨.plus, 0, 0, 0, 0, 0⟩).wordAt 3000) = .ok (.nop here 0) ∧
      exec (.nop here 0) (boot ⟨.plus, 0, 0, 0, 0, 0⟩) = .next t ∧ t.run = .running ∧
      ioUpdate 3000 (cost (boot ⟨.plus, 0, 0, 0, 0, 0⟩) (.nop here 0)) (armedUnit (.nop here 0)) t = .ok t₁ ∧
      ∀ r ∈ [Reg.I1, .I2, .I3, .I4, .I5, .I6, .J], (t₁.reg r).mag < 4096 :=
  ⟨_, _, rfl, rfl, rfl, rfl, by decide⟩

/-- A state with the invariant whose step halts, for each way of filling the halt record: HLT, a division by zero, a load
from 4000, INC1 to 4096, a transfer that runs over the end of memory. -/
theorem test_witness_HaltRecordIsExact :
    ((sampleAt ⟨.plus, 0, 0, 0, 2, 5⟩).Inv ∧
      (after (sampleAt ⟨.plus, 0, 0, 0, 2, 5⟩)).run = .halted .halt { pc := 3000 }) ∧
    ((sampleAt ⟨.plus, 0, 1, 0, 5, 4⟩).Inv ∧
      (after (sampleAt ⟨.plus, 0, 1, 0, 5, 4⟩)).run = .halted .divisionFailure { pc := 3000 }) ∧
    ((sampleAt ⟨.plus, 62, 32, 0, 5, 8⟩).Inv ∧
      (after (sampleAt ⟨.plus, 62, 32, 0, 5, 8⟩)).run = .halted .illegalAddress { pc := 3000, addr := some 4000 }) ∧
    ((sampleAt ⟨.plus, 2, 0, 0, 0, 49⟩).Inv ∧
      (after (sampleAt ⟨.plus, 2, 0, 0, 0, 49⟩)).run = .halted .registerOverflow { pc := 3000, reg := some .I1 }) ∧
    (({ sampleAt ⟨.plus, 0, 0, 0, 1, 5⟩ with hostIn := [{ err := some "jam" }] } : State).Inv ∧
      (after { sampleAt ⟨.plus, 0, 0, 0, 1, 5⟩ with hostIn := [{ err := some "jam" }] }).run =
        .halted .deviceError { pc := 3000, unit := some 18, text := some "jam" }) :=
  ⟨⟨test_sampleAt_inv _ (by decide +kernel), by decide +kernel⟩, ⟨test_sampleAt_inv _ (by decide +kernel), by decide +kernel⟩,
    ⟨test_sampleAt_inv _ (by decide +kernel), by decide +kernel⟩, ⟨test_sampleAt_inv _ (by decide +kernel), by decide +kernel⟩,
    ⟨let h := test_sampleAt_inv ⟨.plus, 0, 0, 0, 1, 5⟩ (by decide +kernel);
      ⟨h.mem_wf, h.execCount_wf, h.execTime_wf, h.dev_count, h.dev_ok, h.j_plus, h.j_le, h.pc_lower, h.pc_upper,
        h.index_bounded⟩, by decide +kernel⟩⟩

theorem test_witness_HaltsKeepWhatTheTableSays :
    (after (sampleAt ⟨.plus, 0, 0, 0, 6, 8⟩)).run = .halted .invalidFieldSpec { pc := 3000 } ∧
    (after (sampleAt ⟨.plus, 0, 0, 0, 4, 48⟩)).run = .halted .invalidOpcodeOrVariant { pc := 3000 } ∧
    (after (sampleAt ⟨.plus, 62, 32, 0, 1, 7⟩)).run = .halted .illegalAddress { pc := 3000, addr := some 4000 } ∧
    (after (sampleAt ⟨.plus, 0, 1, 0, 5, 4⟩)).run = .halted .divisionFailure { pc := 3000 } ∧
    (after (sampleAt ⟨.plus, 0, 0, 0, 2, 5⟩)).run = .halted .halt { pc := 3000 } ∧
    (after (sampleAt ⟨.plus, 2, 0, 0, 0, 49⟩)).run = .halted .registerOverflow { pc := 3000, reg := some .I1 } := by
  decide +kernel

theorem test_witness_HltHalts :
    (⟨.plus, 0, 6⟩ : Addr).indexOk = true ∧ here.indexOk = true ∧
    ∃ t₁, decode ((boot ⟨.plus, 0, 0, 0, 2, 5⟩).wordAt 3000) = .ok (.hlt here) ∧
      ioUpdate 3000 1 none (boot ⟨.plus, 0, 0, 0, 2, 5⟩).seq = .ok t₁ ∧
      ∀ r ∈ [Reg.I1, .I2, .I3, .I4, .I5, .I6, .J], (t₁.reg r).mag < 4096 := ⟨rfl, rfl, _, rfl, rfl, by decide⟩

theorem test_witness_ResetState : implementedUnit 0 ∧ implementedUnit 7 ∧ implementedUnit 18 := by
  unfold implementedUnit; decide

theorem test_witness_EveryStepKeepsInv :
    (sampleAt ⟨.plus, 0, 0, 6, 0, 39⟩).Inv ∧ (after (sampleAt ⟨.plus, 0, 0, 6, 0, 39⟩)).pc = -4095 ∧
    (after (sampleAt ⟨.plus, 0, 0, 6, 0, 39⟩)).run = .running :=
  ⟨test_sampleAt_inv _ (by decide +kernel), by decide +kernel, by decide +kernel⟩

theorem test_witness_LoadPlacesTheImage :
    let image : List (Nat × Word) := [(0, ⟨.plus, 0, 0, 0, 0, 1⟩), (3999, ⟨.plus, 0, 0, 0, 0, 2⟩)]
    (∀ c ∈ image, c.1 ≤ 3999) ∧ (image.map Prod.fst).Nodup ∧ (3999, ⟨.plus, 0, 0, 0, 0, 2⟩) ∈ image ∧
    (∀ c ∈ image, c.1 ≠ 3998) ∧ ((-1 : Int) < 0 ∨ (3999 : Int) < -1) ∧ ((4000 : Int) < 0 ∨ (3999 : Int) < 4000) := by
  decide

/-- CMPA changes ci, JOV clears ovf, ADD, NUM, INCA and DECX set it. -/
theorem test_witness_FlagWriters :
    (sampleAt ⟨.plus, 0, 1, 0, 5, 56⟩).Inv ∧ (sampleAt ⟨.plus, 0, 0, 0, 5, 56⟩).Inv ∧
    (after (sampleAt ⟨.plus, 0, 0, 0, 5, 56⟩)).ci = .greater ∧ (sampleAt ⟨.plus, 0, 0, 0, 5, 56⟩).ci = .less ∧
    (sampleAt ⟨.plus, 0, 0, 0, 2, 39⟩).Inv ∧ (after (sampleAt ⟨.plus, 0, 0, 0, 2, 39⟩)).ovf = false ∧
    (∀ w ∈ [(⟨.minus, 0, 1, 0, 0, 48⟩ : Word), ⟨.minus, 0, 1, 0, 0, 55⟩, ⟨.plus, 15, 40, 0, 5, 1⟩, ⟨.plus, 0, 0, 0, 0, 5⟩],
      (after { ({ sampleAt w with
          ovf := false, a := ⟨.minus, 63, 63, 63, 63, 63⟩, x := ⟨.minus, 63, 63, 63, 63, 63⟩ } : State).putWord 1000
        ⟨.minus, 0, 0, 0, 0, 1⟩ with a := if w.b5 = 5 then ⟨.plus, 39, 39, 39, 39, 39⟩ else ⟨.minus, 63, 63, 63, 63, 63⟩ }).ovf
        = true) :=
  ⟨test_sampleAt_inv _ (by decide +kernel), test_sampleAt_inv _ (by decide +kernel), by decide +kernel, rfl,
    test_sampleAt_inv _ (by decide +kernel), by decide +kernel, by decide +kernel⟩

theorem test_witness_JumpRegisterWriters :
    (after (sampleAt ⟨.plus, 0, 0, 0, 0, 39⟩)).j ≠ (sampleAt ⟨.plus, 0, 0, 0, 0, 39⟩).j ∧ mayWrite .J 39 0 ∧
    (after (sampleAt ⟨.plus, 0, 0, 0, 0, 39⟩)).run = .running ∧ (after (sampleAt ⟨.plus, 0, 0, 0, 0, 39⟩)).pc ≠ 3001 :=
  ⟨by decide +kernel, by simp [mayWrite], by decide +kernel, by decide +kernel⟩

theorem test_witness_RegisterWriters :
    (after (sampleAt ⟨.plus, 0, 1, 0, 2, 54⟩)).reg .I6 ≠ (sampleAt ⟨.plus, 0, 1, 0, 2, 54⟩).reg .I6 := by decide +kernel

theorem test_witness_MemoryAndDeviceWriters :
    (∃ t, exec (.stz here 5) sample = .next t ∧ t.wordAt 0 ≠ sample.wordAt 0) ∧
    (∃ t, exec (.out here 18) { sample with hostIn := [ { } ] } = .next t ∧ t.hostLog ≠ sample.hostLog) :=
  ⟨⟨_, rfl, by decide⟩, ⟨_, rfl, by decide +kernel⟩⟩

theorem test_witness_CountersAreInvisible : ∃ t, exec (.lda here 5) sample = .next t := ⟨_, rfl⟩

theorem test_witness_LoadsSetTheRegister :
    (id, Reg.A, Instr.lda) ∈ allLoadForms ∧ (Sign.flip, Reg.X, Instr.ldxn) ∈ allLoadForms ∧
    effAddr last sample = .ok ⟨.plus, 0, 0, 0, 62, 31⟩ ∧ effAddr here sample = .ok ⟨.plus, 0, 0, 0, 0, 0⟩ :=
  ⟨by simp [allLoadForms, loadForms], by simp [allLoadForms, loadNegForms], rfl, rfl⟩

theorem test_witness_StoresReplaceTheField :
    ((fun _ => Word.plusZero), Instr.stz) ∈ allStoreForms ∧ Memory.wf sample.mem = true ∧
    effAddr last sample = .ok ⟨.plus, 0, 0, 0, 62, 31⟩ ∧ effAddr here sample = .ok ⟨.plus, 0, 0, 0, 0, 0⟩ :=
  ⟨by simp [allStoreForms], by decide +kernel, rfl, rfl⟩

theorem test_witness_AddSubExact :
    ((fun a v => a - v), Instr.sub) ∈ addSubForms ∧ effAddr last sample = .ok ⟨.plus, 0, 0, 0, 62, 31⟩ ∧
    fieldSpec 0 = some ⟨0, 0⟩ := ⟨by simp [addSubForms], rfl, rfl⟩

theorem test_witness_MulExact :
    effAddr here sample = .ok ⟨.plus, 0, 0, 0, 0, 0⟩ ∧ fieldSpec 5 = some ⟨0, 5⟩ ∧
    (extractField (sample.wordAt 0) ⟨0, 5⟩).sign = .minus := ⟨rfl, rfl, rfl⟩

/-- |A| = 3 is below 7, equal to 3 and above 0. -/
theorem test_witness_DivExactOrHalts :
    sample.a.mag < (extractField (sample.wordAt 3999) ⟨0, 5⟩).mag ∧
    (extractField (sample.wordAt 0) ⟨3, 3⟩).mag = sample.a.mag ∧ (extractField (sample.wordAt 0) ⟨0, 0⟩).mag = 0 ∧
    fieldSpec 27 = some ⟨3, 3⟩ ∧ fieldSpec 0 = some ⟨0, 0⟩ ∧ sample.params.divRemSign = .product ∧
    ({ sample with params := { Params.default with divRemSign := .dividend } } : State).params.divRemSign ≠ .product := by
  decide

theorem test_witness_NumReadsTenDigits : (⟨.minus, 4095, 6⟩ : Addr).indexOk = true ∧ here.indexOk = true := by decide
theorem test_witness_CharWritesTenDigits : (⟨.minus, 4095, 6⟩ : Addr).indexOk = true ∧ here.indexOk = true := by decide
theorem test_witness_NopOnlyAdvances : (⟨.minus, 4095, 6⟩ : Addr).indexOk = true ∧ here.indexOk = true := by decide

theorem test_witness_SingleShiftsMoveUnits :
    sample.params.shiftUnit = .byte ∧ effAddr ⟨.minus, 0, 0⟩ sample = .ok ⟨.minus, 0, 0, 0, 0, 0⟩ ∧ Word.mag ⟨.minus, 0, 0, 0, 0, 0⟩ = 0 ∧
    effAddr ⟨.plus, 4095, 1⟩ sample = .ok ⟨.plus, 0, 0, 1, 62, 31⟩ := ⟨rfl, rfl, rfl, rfl⟩

theorem test_witness_DoubleShiftsMoveUnits :
    sample.params.shiftUnit = .byte ∧ effAddr ⟨.minus, 0, 0⟩ sample = .ok ⟨.minus, 0, 0, 0, 0, 0⟩ ∧ Word.mag ⟨.minus, 0, 0, 0, 0, 0⟩ = 0 ∧
    effAddr ⟨.plus, 4095, 1⟩ sample = .ok ⟨.plus, 0, 0, 1, 62, 31⟩ := ⟨rfl, rfl, rfl, rfl⟩

theorem test_witness_ShiftCount :
    effAddr ⟨.minus, 0, 0⟩ sample = .ok ⟨.minus, 0, 0, 0, 0, 0⟩ ∧
    effAddr ⟨.minus, 1, 0⟩ sample = .ok ⟨.minus, 0, 0, 0, 0, 1⟩ ∧ 0 < Word.mag ⟨.minus, 0, 0, 0, 0, 1⟩ ∧
    effAddr ⟨.plus, 10, 0⟩ sample = .ok ⟨.plus, 0, 0, 0, 0, 10⟩ ∧ shiftCount ⟨.plus, 0, 0, 0, 0, 10⟩ sample = .ok 10 ∧
    Instr.src ∈ shiftForms := ⟨rfl, rfl, by decide, rfl, rfl, by simp [shiftForms]⟩

/-- F = 0 with an address outside memory, and the last word moved to 0. -/
theorem test_witness_MoveCopiesTheBlock :
    Memory.wf sample.mem = true ∧ effAddr outside sample = .ok ⟨.plus, 0, 0, 0, 62, 32⟩ ∧ (0 : Byte).toNat = 0 ∧
    effAddr last { sample with i1 := ⟨.minus, 0, 0, 0, 0, 0⟩ } = .ok ⟨.plus, 0, 0, 0, 62, 31⟩ ∧
    Word.val ⟨.plus, 0, 0, 0, 62, 31⟩ + (1 : Byte).toNat ≤ 4000 ∧ 0 ≤ Word.val ⟨.minus, 0, 0, 0, 0, 0⟩ :=
  ⟨by decide +kernel, rfl, rfl, rfl, by decide, by decide⟩

/-- A source that is outside at once; a destination that is outside at once; a source that is outside after one word. -/
theorem test_witness_MoveHaltsAtTheFirstBadAddress :
    addrOk (Word.val ⟨.plus, 0, 0, 0, 62, 32⟩ + (0 : Nat)) = false ∧
    (addrOk (Word.val ⟨.plus, 0, 0, 0, 0, 0⟩ + (0 : Nat)) = true ∧ addrOk (sample.i1.val + (0 : Nat)) = false) ∧
    (addrOk (Word.val ⟨.plus, 0, 0, 0, 62, 31⟩ + (0 : Nat)) = true ∧
      addrOk (({ sample with i1 := ⟨.plus, 0, 0, 0, 1, 0⟩ } : State).i1.val + (0 : Nat)) = true ∧
      addrOk (Word.val ⟨.plus, 0, 0, 0, 62, 31⟩ + (1 : Nat)) = false) ∧ Memory.wf sample.mem = true := by decide +kernel

theorem test_witness_ComparesOrderTheValues :
    (Reg.X, Instr.cmpx) ∈ compareForms ∧ effAddr last sample = .ok ⟨.plus, 0, 0, 0, 62, 31⟩ ∧
    fieldSpec 5 = some ⟨0, 5⟩ := ⟨by simp [compareForms], rfl, rfl⟩

theorem test_witness_PlainAndOverflowJumps :
    effAddr outside sample = .ok ⟨.plus, 0, 0, 0, 62, 32⟩ ∧ addrOk sample.pc = true ∧ sample.ovf = true ∧
    addrOk State.reset.pc = true ∧ State.reset.ovf = false := ⟨rfl, rfl, rfl, rfl, rfl⟩

theorem test_witness_ComparisonJumps :
    ([Cmp.less], Instr.jl) ∈ ciJumpForms ∧ ([Cmp.greater, .equal], Instr.jge) ∈ ciJumpForms ∧ sample.ci = .less ∧
    effAddr here sample = .ok ⟨.plus, 0, 0, 0, 0, 0⟩ ∧ addrOk sample.pc = true :=
  ⟨by simp [ciJumpForms], by simp [ciJumpForms], rfl, rfl, rfl⟩

theorem test_witness_RegisterJumps :
    ((fun v => decide (v < 0)), Reg.I6, Instr.j6n) ∈ regJumpForms ∧ (sample.reg .I6).val = -4095 ∧
    effAddr here sample = .ok ⟨.plus, 0, 0, 0, 0, 0⟩ ∧ addrOk sample.pc = true :=
  ⟨by simp [regJumpForms, jumpNegForms], by decide, rfl, rfl⟩

theorem test_witness_IncDecExact :
    ((fun a v => a + v), Reg.I6, Instr.inc6) ∈ incDecForms ∧ effAddr ⟨.minus, 4095, 6⟩ sample = .ok ⟨.minus, 0, 0, 1, 63, 62⟩ :=
  ⟨by simp [incDecForms, incForms], rfl⟩

theorem test_witness_EntEnnEnterM :
    (Sign.flip, Reg.X, Instr.ennx) ∈ entEnnForms ∧ effAddr ⟨.minus, 0, 0⟩ sample = .ok ⟨.minus, 0, 0, 0, 0, 0⟩ :=
  ⟨by simp [entEnnForms, ennForms], rfl⟩

theorem test_witness_BusyAndReadyJumps :
    effAddr here sample = .ok ⟨.plus, 0, 0, 0, 0, 0⟩ ∧ addrOk sample.pc = true ∧ (20 : Byte).toNat ≤ 20 ∧
    0 < (sample.dev 18).timer ∧ (sample.dev 20).timer = 0 := ⟨rfl, rfl, by decide, by decide, by decide⟩

/-- A unit at its threshold, a waiting unit whose transfer succeeds, and one whose transfer fails. -/
theorem test_witness_ArmWithForcedCompletion :
    (IoOp.output, Instr.out) ∈ startIoForms ∧ unitTakes .output (18 : Byte).toNat ∧ sample.devs.length = 21 ∧
    (({ sample with devs := devices 18 100 .output 10 5 } : State).dev 18).timer ≤ 10 / 2 ∧
    10 / 2 < (sample.dev 18).timer ∧
    (∃ s₁, transfer 3999 18 { sample with hostIn := [ { } ] } = .ok s₁) ∧
    (∃ h, transfer 3999 18 { sample with hostIn := [ { err := some "jam" } ] } = .error h) :=
  ⟨by simp [startIoForms], by simp [unitTakes], rfl, by decide, by decide, ⟨_, rfl⟩, ⟨_, rfl⟩⟩

/-- IOC on a unit at its threshold, on a waiting unit, and on one whose transfer fails; the host accepts or refuses. -/
theorem test_witness_IocForcesThenAsksTheHost :
    implementedUnit (18 : Byte).toNat ∧ effAddr here sample = .ok ⟨.plus, 0, 0, 0, 0, 0⟩ ∧ sample.devs.length = 21 ∧
    ¬ 10 / 2 < (({ sample with devs := devices 18 100 .output 10 5 } : State).dev 18).timer ∧
    10 / 2 < (sample.dev 18).timer ∧
    (∃ h, transfer 3999 18 { sample with hostIn := [ { err := some "jam" } ] } = .error h) ∧
    (∃ s₁, transfer 3999 18 { sample with hostIn := [ { }, { } ] } = .ok s₁ ∧
      hostErr (s₁.setDev 18 { s₁.dev 18 with timer := 0 }) (.hostControl 18 ⟨.plus, 0, 0, 0, 0, 0⟩) = none) ∧
    (∃ s₁, transfer 3999 18 { sample with hostIn := [ { }, { err := some "no" } ] } = .ok s₁ ∧
      hostErr (s₁.setDev 18 { s₁.dev 18 with timer := 0 }) (.hostControl 18 ⟨.plus, 0, 0, 0, 0, 0⟩) = some "no") :=
  ⟨by simp [implementedUnit], rfl, rfl, by decide, by decide, ⟨_, rfl⟩, ⟨_, rfl, rfl⟩, ⟨_, rfl, rfl⟩⟩

theorem test_witness_UnitChecks :
    20 < (21 : Byte).toNat ∧ reservedUnit (8 : Byte).toNat ∧ reservedUnit (20 : Byte).toNat ∧ (18 : Byte).toNat = 18 ∧
    (16 : Byte).toNat = 16 ∧ ((20 : Byte).toNat ≤ 20 ∧ here.indexOk = true) ∧ (sampleAt ⟨.plus, 0, 0, 0, 0, 0⟩).Inv :=
  ⟨by decide, by simp [reservedUnit], by simp [reservedUnit], rfl, rfl, ⟨by decide, rfl⟩,
    test_sampleAt_inv _ (by decide +kernel)⟩

theorem test_witness_FieldSpecCheck :
    Instr.lda ∈ fieldForms ∧ Instr.div ∈ fieldForms ∧ here.indexOk = true ∧ 5 < (48 : Byte).toNat / 8 ∧
    5 < (6 : Byte).toNat % 8 ∧ (8 : Byte).toNat % 8 < (8 : Byte).toNat / 8 :=
  ⟨by simp [fieldForms, loadForms], by simp [fieldForms], rfl, by decide, by decide, by decide⟩

theorem test_witness_AddressCheck :
    Instr.lda ∈ fieldForms ∧ effAddr outside sample = .ok ⟨.plus, 0, 0, 0, 62, 32⟩ ∧
    4000 ≤ Word.val ⟨.plus, 0, 0, 0, 62, 32⟩ ∧ effAddr ⟨.minus, 1, 0⟩ sample = .ok ⟨.minus, 0, 0, 0, 0, 1⟩ ∧
    Word.val ⟨.minus, 0, 0, 0, 0, 1⟩ < 0 ∧ (fieldSpec 5).isSome = true ∧ Memory.wf sample.mem = true :=
  ⟨by simp [fieldForms, loadForms], rfl, by decide, rfl, by decide, rfl, by decide +kernel⟩

theorem test_witness_FieldExtraction :
    ¬ ((6 : Byte).toNat / 8 ≤ (6 : Byte).toNat % 8 ∧ (6 : Byte).toNat % 8 ≤ 5) ∧
    (45 : Byte).toNat / 8 ≤ (45 : Byte).toNat % 8 ∧ (45 : Byte).toNat % 8 ≤ 5 := by decide

theorem test_witness_FieldInsertion :
    ¬ ((8 : Byte).toNat / 8 ≤ (8 : Byte).toNat % 8 ∧ (8 : Byte).toNat % 8 ≤ 5) ∧
    (0 : Byte).toNat / 8 ≤ (0 : Byte).toNat % 8 ∧ (0 : Byte).toNat % 8 ≤ 5 := by decide

theorem test_witness_AdditionLaws :
    (smAdd ⟨.plus, 63, 63, 63, 63, 62⟩ ⟨.plus, 0, 0, 0, 0, 1⟩).2 = false ∧ Word.mag ⟨.minus, 0, 0, 0, 0, 0⟩ = 0 := by decide

/-- An update without a crossing (unit 18 is the armed one), and at the crossing of unit 18 a transfer that succeeds and
one that fails, each from the state with the lowered timers. -/
theorem test_witness_TimerUpdate :
    sample.devs.length = 21 ∧
    (∃ t, ioUpdate 3000 1 none { sample with hostIn := [{ }] } = .ok t) ∧
    (∃ h, ioUpdate 3000 1 none { sample with hostIn := [{ err := some "jam" }] } = .error h) ∧
    (∀ u, u ≤ 20 → some 18 = some u ∨ ¬ crosses sample u 1) ∧
    crosses sample 18 1 ∧ (∀ v, v ≠ 18 → v ≤ 20 → ¬ crosses sample v 1) ∧
    (∃ s₁, transfer 3000 18 (({ sample with hostIn := [{ }] } : State).lowerTimers 1 none 19) = .ok s₁) ∧
    (∃ h, transfer 3000 18 (({ sample with hostIn := [{ err := some "jam" }] } : State).lowerTimers 1 none 19) = .error h) := by
  refine ⟨rfl, ⟨_, rfl⟩, ⟨_, rfl⟩, ?_, by unfold crosses; decide, ?_, ⟨_, rfl⟩, ⟨_, rfl⟩⟩
  · intro u hu
    unfold crosses
    interval_cases u <;> decide
  · intro u hu hu'
    unfold crosses
    interval_cases u <;> first | decide | exact absurd rfl hu

/-- The tape 7 and the printer cross in one update: both transfer, or the printer's transfer fails after the tape's. -/
def twoCrossing (answers : List HostAnswer) : State :=
  { sample with
    devs := (devices 18 100 .output 10 6).set 7 (unitRec 7 200 .output 10 6), hostIn := answers }

theorem test_witness_EachCrossingTransfersOnce :
    (twoCrossing []).devs.length = 21 ∧ crosses (twoCrossing []) 7 1 ∧ crosses (twoCrossing []) 18 1 ∧
    (∃ t, ioUpdate 3000 1 none (twoCrossing [{ }, { }]) = .ok t ∧ t.hostLog.length = 2) ∧
    (∃ h, ioUpdate 3000 1 none (twoCrossing [{ }, { err := some "jam" }]) = .error h ∧
      h.run = .halted .deviceError { pc := 3000, unit := some 18, text := some "jam" }) := by
  refine ⟨rfl, by unfold crosses; decide, by unfold crosses; decide, ⟨_, rfl, rfl⟩, ⟨_, rfl, rfl⟩⟩

theorem test_witness_TransferFailureHalts :
    implementedUnit 18 ∧ unitTakes (sample.dev 18).op 18 ∧
    (3999 < (({ sample with devs := devices 18 3977 .output 10 6 } : State).dev 18).addr + blockLength sample 18 - 1) ∧
    (0 ≤ (({ sample with devs := devices 18 3976 .output 10 6 } : State).dev 18).addr ∧
      (({ sample with devs := devices 18 3976 .output 10 6 } : State).dev 18).addr + blockLength sample 18 - 1 ≤ 3999) ∧
    (∃ h, transfer 3000 18 { sample with hostIn := [{ err := some "jam" }] } = .error h ∧ h.hostLog.length = 1) ∧
    hostErr { sample with hostIn := [ { err := some "jam" } ] } (transferRequest sample 18) = some "jam" :=
  ⟨by simp [implementedUnit], .inr rfl, by decide, by decide, ⟨_, rfl, rfl⟩, rfl⟩

theorem test_witness_InputTransfersFillTheBlock :
    unitTakes .input 16 ∧ unitTakes .input 7 ∧ Memory.wf sample.mem = true ∧
    (({ sample with devs := devices 16 3984 .input 10 6 } : State).dev 16).op = .input ∧
    (({ sample with devs := devices 16 3984 .input 10 6 } : State).dev 16).addr + blockLength sample 16 - 1 ≤ 3999 ∧
    (({ sample with devs := devices 7 3900 .input 10 6 } : State).dev 7).addr + blockLength sample 7 - 1 ≤ 3999 ∧
    hostErr { sample with hostIn := [card] } .readCard = none ∧
    hostErr { sample with hostIn := [ { err := some "end of data" } ] } (.tapeRead 7) = some "end of data" :=
  ⟨.inr rfl, .inl (by decide), by decide +kernel, by decide, by decide, by decide, rfl, rfl⟩

theorem test_witness_OutputTransfersSendTheBlock :
    unitTakes .output 18 ∧ unitTakes .output 0 ∧
    (({ sample with devs := devices 18 3976 .output 10 6 } : State).dev 18).addr + blockLength sample 18 - 1 ≤ 3999 ∧
    (({ sample with devs := devices 0 3900 .output 10 6 } : State).dev 0).addr + blockLength sample 0 - 1 ≤ 3999 ∧
    (∃ codes, transferRequest { sample with devs := devices 18 3976 .output 10 6 } 18 = .printLine codes) ∧
    (∃ ws, transferRequest { sample with devs := devices 0 3900 .output 10 6 } 0 = .tapeWrite 0 ws) ∧
    hostErr { sample with hostIn := [ { } ] } (transferRequest sample 18) = none ∧
    hostErr { sample with hostIn := [ { err := some "jam" } ] } (transferRequest sample 18) = some "jam" :=
  ⟨.inr rfl, .inl (by decide), by decide, by decide, ⟨_, rfl⟩, ⟨_, rfl⟩, rfl, rfl⟩

/-- One step of NOP with unit 18 draining. -/
theorem test_witness_PendingUnitGoesIdle :
    let s : State := { sampleAt ⟨.plus, 0, 0, 0, 0, 0⟩ with devs := devices 18 100 .output 10 5 }
    step s = .next (after s) ∧ (after s).run = .running ∧ ¬ armsUnit s 18 ∧ s.devs.length = 21 := by
  refine ⟨rfl, by decide +kernel, ?_, rfl⟩
  rintro ⟨m, f, -, h | h⟩ <;> cases h

/-- Two instructions of one entry, two of one variant opcode, and a table that is not the default one, under which NOP takes
five units and lowers a timer by five. -/
theorem test_witness_TimeTable :
    opByte (.lda here 5) = opByte (.lda last 0) ∧ opByte (.lda here 5) ∉ [7, 35, 36, 37] ∧
    variantCount (opByte (.lda here 5)) = none ∧
    (opByte (.hlt here) = opByte (.hlt last) ∧ variantCount (opByte (.hlt here)) ≠ none ∧
      fByte (.hlt here) = fByte (.hlt last)) ∧
    (let s : State := { boot ⟨.plus, 0, 0, 0, 0, 0⟩ with
        params := { Params.default with time := [[TimeUnits.of 5]] }, devs := devices 18 100 .output 20 9 }
     cost s (.nop here 0) = 5 ∧ ((after s).dev 18).timer = 4 ∧ tableRead 0 (after s).execTime 3000 = 5 ∧
       (after s).params = s.params) ∧
    State.reset.params.time = State.reset.params.time ∧ (∀ c v : Nat, 1 ≤ (fun c v => c + v + 1) c v) :=
  ⟨rfl, by decide, by decide, ⟨rfl, by decide, rfl⟩, by decide +kernel, rfl, fun _ _ => Nat.le_add_left _ _⟩

theorem test_witness_ParametersAreFixed : ∃ u, step State.reset = .next u ∧ u.pc = 1 := ⟨_, rfl, by decide +kernel⟩

/-! ### Parameters at values that are not the defaults (00_scope.md R4) -/

/-- A machine about to run one word at 3000 under the parameters `p`. -/
def bootWith (p : Params) (w : Word) : State := { boot w with params := p }

/-- DIV_REM_SIGN = DIVIDEND, vector V2.32: the remainder has the sign that A had. -/
theorem test_remainder_sign_of_dividend :
    let t := after { (bootWith { Params.default with divRemSign := .dividend } ⟨.plus, 31, 16, 0, 5, 4⟩).putWord 2000
        ⟨.minus, 0, 0, 0, 0, 5⟩ with a := ⟨.plus, 0, 0, 0, 0, 0⟩, x := ⟨.plus, 0, 0, 0, 0, 17⟩ }
    t.a = ⟨.minus, 0, 0, 0, 0, 3⟩ ∧ t.x = ⟨.plus, 0, 0, 0, 0, 2⟩ ∧ t.pc = 3001 := by decide +kernel

/-- SHIFT_UNIT_BITS = 1: SLA 1 doubles A, and SRC 1 puts the lowest bit of X on top of A (R340, R345, R347). -/
theorem test_shifts_by_bits :
    let s (w : Word) : State := { bootWith { Params.default with shiftUnit := .bit } w with
      a := ⟨.minus, 0, 0, 0, 1, 33⟩, x := ⟨.minus, 0, 0, 0, 0, 3⟩ }
    (after (s ⟨.plus, 0, 1, 0, 0, 6⟩)).a = ⟨.minus, 0, 0, 0, 3, 2⟩ ∧
    (after (s ⟨.plus, 0, 1, 0, 5, 6⟩)).a = ⟨.minus, 32, 0, 0, 0, 48⟩ ∧
    (after (s ⟨.plus, 0, 1, 0, 5, 6⟩)).x = ⟨.minus, 32, 0, 0, 0, 1⟩ := by decide +kernel

/-- TAPE_BLOCK_WORDS = 2: two words go to the tape, and a block may begin at 3998 (R490, R494). -/
theorem test_tape_block_of_two_words :
    let s : State := { sample with
      params := { Params.default with tapeBlockWords := 2 }, devs := devices 0 3998 .output 10 6 }
    blockLength s 0 = 2 ∧ transferRequest s 0 = .tapeWrite 0 [s.wordAt 3998, s.wordAt 3999] ∧
    (∃ t, transfer 3000 0 { s with hostIn := [{ }] } = .ok t) := ⟨rfl, rfl, ⟨_, rfl⟩⟩

/-- RESET_CI = LESS: reset and load leave ci LESS (R45). -/
theorem test_reset_ci :
    let s : State := { sample with params := { Params.default with resetCi := .less } }
    (hostReset s).ci = .less ∧ (hostLoad s [] 7).ci = .less ∧ (hostReset sample).ci = .equal := ⟨rfl, rfl, rfl⟩

end Sys2Proof.Tests
end

section
/-! PROOF. The parameters are configuration (00_scope.md R4): no phase of a step writes one, and no request of the
host. -/

namespace Sys2Proof.Machine

/-! ### The phases of a step -/

theorem coreKept_params {s t : State} (h : coreKept s t) : t.params = s.params := by
  obtain ⟨-, -, -, -, -, hp⟩ := h
  exact hp

theorem HaltsAt.params_eq {s h : State} {n : Int} (hh : HaltsAt s h n) : h.params = s.params := by
  obtain ⟨-, rfl⟩ := hh
  exact State.setRun_params _ _

@[simp] theorem State.haltedFor_params (s : State) (r : HaltReason) : (s.haltedFor r).params = s.params := rfl

@[simp] theorem record_params (pc0 : Int) (c : Nat) (s : State) : (record pc0 c s).params = s.params := rfl

@[simp] theorem stopPhase_params (pc0 : Int) (i : Instr) (s : State) : (stopPhase pc0 i s).params = s.params := by
  unfold stopPhase
  split
  · exact State.setRun_params _ _
  · rfl

/-- Each way to halt in phase EXECUTE halts a state that has the parameters of `s`. -/
theorem ExecHalts.params_eq {c : Nat} {s h : State} (hh : ExecHalts c s h) : h.params = s.params := by
  rcases hh with rfl | rfl | ⟨n, hat⟩ | ⟨-, mem, n, -, hat⟩ | ⟨-, rfl⟩ | ⟨-, -, u, text, -, hcore, -⟩
  · exact State.haltedFor_params _ _
  · exact State.haltedFor_params _ _
  · exact hat.params_eq
  · exact hat.params_eq.trans (State.setMem_params _ _)
  · exact (State.haltedFor_params _ _).trans (State.setOvf_params _ _)
  · exact coreKept_params hcore

/-- Phases IO_UPDATE, CHECK, RECORD and STOP, whichever of them ends the step. -/
theorem Finishes.params_eq {s t u : State} {i : Instr} (h : Finishes s i t u) : u.params = t.params := by
  rcases h with herr | ⟨t₁, hio, hcheck⟩ | ⟨t₁, hio, -, rfl⟩
  · obtain ⟨hcore, -⟩ := updateUnits_error _ herr
    exact coreKept_params hcore
  · obtain ⟨hcore, -⟩ := updateUnits_ok _ hio
    obtain ⟨_, _, _, -, -, -, rfl⟩ := checkRegs_eq_error hcheck
    exact (State.setRun_params _ _).trans (coreKept_params hcore)
  · obtain ⟨hcore, -⟩ := updateUnits_ok _ hio
    calc (stopPhase s.pc i (record s.pc (cost s i) t₁)).params = t₁.params := by simp
      _ = t.params := coreKept_params hcore

/-- A step keeps the parameters, at each of the ends that `step_cases` lists. -/
theorem step_params {s u : State} (h : step s = .next u) : u.params = s.params := by
  rcases step_cases h with hfetch | ⟨-, rfl, -⟩ | ⟨-, i, -, ⟨hhalts, -⟩ | ⟨t, hends, -, hfin⟩⟩
  · exact hfetch.params_eq
  · exact State.haltedFor_params _ _
  · exact hhalts.params_eq
  · exact hfin.params_eq.trans hends.params

/-! ### The host's requests -/

@[simp] theorem hostReset_params (s : State) : (hostReset s).params = s.params := rfl

@[simp] theorem hostFailedLoad_params (s : State) : (hostFailedLoad s).params = s.params := hostReset_params s

@[simp] theorem putImage_params (image : List (Nat × Word)) (s : State) : (putImage s image).params = s.params := by
  induction image generalizing s with
  | nil => rfl
  | cons cell rest ih =>
    obtain ⟨a, w⟩ := cell
    rw [putImage, ih]
    split
    · exact State.putWord_params s a w
    · rfl

@[simp] theorem hostLoad_params (s : State) (image : List (Nat × Word)) (entry : Int) :
    (hostLoad s image entry).params = s.params := by
  simp [hostLoad]

/-- Settles O60: a step by the inversion `step_cases`, a load by induction on the image. -/
theorem parametersAreFixed : Obligations.ParametersAreFixed :=
  ⟨fun _ _ => step_params, fun s => ⟨hostReset_params s, hostFailedLoad_params s⟩, hostLoad_params⟩

end Sys2Proof.Machine
end

section
/-! PROOF. The field check (30_encoding.md R106): which F bytes are field specifications, and that every instruction of
the role `field` halts where its operand does. -/

namespace Sys2Proof.Machine

/-! ### Field specifications -/

theorem fieldSpec_isSome_iff {f : Byte} :
    (fieldSpec f).isSome = true ↔ f.toNat / 8 ≤ f.toNat % 8 ∧ f.toNat % 8 ≤ 5 := by
  simp only [fieldSpec]
  split <;> rename_i hvalid <;> simp [hvalid]

theorem fieldSpec_eq_none_iff {f : Byte} :
    fieldSpec f = none ↔ 5 < f.toNat / 8 ∨ 5 < f.toNat % 8 ∨ f.toNat % 8 < f.toNat / 8 := by
  rw [← Option.not_isSome_iff_eq_none, fieldSpec_isSome_iff]
  omega

/-- The bytes `8L + R` with `L ≤ R ≤ 5`, listed. -/
theorem fieldSpec_isSome_iff_mem (f : Byte) :
    (fieldSpec f).isSome = true ↔
      f.toNat ∈ [0, 1, 2, 3, 4, 5, 9, 10, 11, 12, 13, 18, 19, 20, 21, 27, 28, 29, 36, 37, 45] := by
  revert f; decide +kernel

/-! ### The operand of an instruction with a field -/

theorem effAddr_of_indexOk {m : Addr} (hi : m.indexOk = true) (s : State) : ∃ ma, effAddr m s = .ok ma := by
  cases he : effAddr m s with
  | ok ma => exact ⟨ma, rfl⟩
  | error h =>
    obtain ⟨hnone, -⟩ := effAddr_eq_error.1 he
    have hsome : (indexReg m.idx).isSome = true := (indexReg_isSome_iff _).2 (by simpa [Addr.indexOk] using hi)
    simp [hnone] at hsome

/-- The field is checked after M is formed and before memory is read (41_cycle.md R207). -/
theorem fieldOperand_of_fieldSpec_eq_none {m : Addr} {f : Byte} {s : State} (hi : m.indexOk = true)
    (hf : fieldSpec f = none) : fieldOperand m f s = .error (s.haltedFor .invalidFieldSpec) := by
  obtain ⟨ma, hma⟩ := effAddr_of_indexOk hi s
  have hcheck : fieldOf f s = .error (s.haltedFor .invalidFieldSpec) := fieldOf_eq_error.2 ⟨hf, rfl⟩
  simp [fieldOperand, hma, hcheck]

/-! ### The instructions with a field -/

/-- The instructions of the role `field`, family by family; STZ goes with the stores. -/
theorem mem_fieldForms {e : Addr → Byte → Instr} (he : e ∈ fieldForms) :
    (∃ r, (r, e) ∈ loadForms) ∨ (∃ r, (r, e) ∈ loadNegForms) ∨ (∃ v, (v, e) ∈ allStoreForms) ∨
      (∃ r, (r, e) ∈ compareForms) ∨ e = .add ∨ e = .sub ∨ e = .mul ∨ e = .div := by
  simp only [fieldForms, List.map_append, List.mem_append, List.mem_map, Prod.exists, exists_eq_right, List.mem_cons,
    List.not_mem_nil, or_false] at he
  rcases he with (((h | h) | ⟨r, h⟩) | h) | h | h
  · exact .inl h
  · exact .inr (.inl h)
  · exact .inr (.inr (.inl ⟨_, List.mem_append_left _ (List.mem_map_of_mem h)⟩))
  · exact .inr (.inr (.inr (.inl h)))
  · exact .inr (.inr (.inl ⟨_, by rw [h]; exact List.mem_append_right _ (List.mem_singleton_self _)⟩))
  · exact .inr (.inr (.inr (.inr h)))

/-- An instruction with a field halts as its operand does, whatever else it would do with it. -/
theorem exec_of_fieldOperand_eq_error {e : Addr → Byte → Instr} (he : e ∈ fieldForms) {m : Addr} {f : Byte}
    {s h : State} (hv : fieldOperand m f s = .error h) : exec (e m f) s = .next h := by
  rcases mem_fieldForms he with ⟨r, hr⟩ | ⟨r, hr⟩ | ⟨v, hr⟩ | ⟨r, hr⟩ | rfl | rfl | rfl | rfl
  · exact (exec_of_mem_loadForms hr m f s).trans (congrArg outcome (loadReg_error hv))
  · exact (exec_of_mem_loadNegForms hr m f s).trans (congrArg outcome (loadNegReg_error hv))
  · exact (exec_of_mem_allStoreForms hr m f s).trans (congrArg outcome (storeWord_error hv))
  · exact (exec_of_mem_compareForms hr m f s).trans (congrArg outcome (compareReg_error hv))
  · exact congrArg outcome (addToA_error hv)
  · exact congrArg outcome (subFromA_error hv)
  · exact congrArg outcome (multiplyA_error hv)
  · exact congrArg outcome (divideAX_error hv)

/-- Settles O49: the failing field check ends the operand, and with it the instruction. -/
theorem fieldSpecCheck : Obligations.FieldSpecCheck :=
  ⟨fun _ => fieldSpec_isSome_iff, fieldSpec_isSome_iff_mem, fun _ he _ _ _ hi hbad =>
    exec_of_fieldOperand_eq_error he (fieldOperand_of_fieldSpec_eq_none hi (fieldSpec_eq_none_iff.2 hbad))⟩

end Sys2Proof.Machine
end

section
/-! PROOF. Multiplication (40_alu.md R156, 43_arithmetic.md R302): the two halves of the product, and what MUL leaves
unchanged. -/

namespace Sys2Proof.Machine

/-! ### An instruction that writes two registers and advances -/

/-- What is left when an instruction has written the registers `r` and `r'` and advanced pc. -/
theorem frame_of_setReg_setReg_seq {s t : State} {r r' : Reg} {w w' : Word}
    (ht : t = ((s.setReg r w).setReg r' w').seq) :
    regsKept [r, r'] s t ∧ t.pc = s.pc + 1 ∧ memKept s t ∧ flagsKept s t ∧ surroundingsKept s t := by
  subst ht
  refine ⟨?_, by simp, fun n => by simp, ⟨by simp, by simp⟩, ⟨by simp, by simp, by simp⟩, by simp, by simp, by simp,
    by simp⟩
  intro q hq
  obtain ⟨hr, hr'⟩ : q ≠ r ∧ q ≠ r' := by simpa using hq
  calc (((s.setReg r w).setReg r' w').seq).reg q = ((s.setReg r w).setReg r' w').reg q := State.seq_reg _ q
    _ = (s.setReg r w).reg q := State.setReg_reg_of_ne _ w' hr'
    _ = s.reg q := State.setReg_reg_of_ne s w hr

/-! ### The product -/

@[simp] theorem smMul_fst_sign (a v : Word) : (smMul a v).1.sign = Sign.same a.sign v.sign := rfl

@[simp] theorem smMul_snd_sign (a v : Word) : (smMul a v).2.sign = Sign.same a.sign v.sign := rfl

/-- The two halves hold the whole product: it is below 2^60, so its high half fits in a word. -/
theorem smMul_mag (a v : Word) : magLimit * (smMul a v).1.mag + (smMul a v).2.mag = a.mag * v.mag := by
  have hhi : a.mag * v.mag / magLimit < magLimit :=
    Nat.div_lt_of_lt_mul (Nat.mul_lt_mul'' a.mag_lt v.mag_lt)
  have hlo : a.mag * v.mag % magLimit < magLimit := Nat.mod_lt _ (by decide)
  calc magLimit * (smMul a v).1.mag + (smMul a v).2.mag
      = magLimit * (a.mag * v.mag / magLimit) + a.mag * v.mag % magLimit := by
        simp only [smMul, Word.mag_ofMag _ hhi, Word.mag_ofMag _ hlo]
    _ = a.mag * v.mag := Nat.div_add_mod _ _

theorem exec_mul_of_fieldOperand_eq_ok {m : Addr} {f : Byte} {s : State} {p : FieldSpec} {v : Word}
    (hv : fieldOperand m f s = .ok (p, v)) :
    exec (.mul m f) s = .next ((s.setReg .A (smMul s.a v).1).setReg .X (smMul s.a v).2).seq :=
  congrArg outcome (multiplyA_ok hv)

/-- Settles O29: the operand is the field, A and X receive `smMul`, and the frame is that of two register writes. -/
theorem mulExact : Obligations.MulExact := by
  intro m f s ma p hm hf ha
  have hv : fieldOperand m f s = .ok (p, extractField (s.wordAt ma.val.toNat) p) :=
    fieldOperand_eq_ok.2 ⟨ma, hm, hf, ha, rfl⟩
  exact ⟨_, exec_mul_of_fieldOperand_eq_ok hv, smMul_mag _ _, smMul_fst_sign _ _,
    (smMul_snd_sign _ _).trans (smMul_fst_sign _ _).symm, frame_of_setReg_setReg_seq rfl⟩

end Sys2Proof.Machine
end

section
/-! PROOF. Field extraction (40_alu.md R150): the magnitude of a field is the sum the rule writes, it fits in a word, and
the three fields whose value the rule quotes. -/

namespace Sys2Proof.Machine

/-! ### The magnitude of a field -/

theorem fieldMag_eq_sum (w : Word) (p : FieldSpec) :
    fieldMag w p = ∑ k ∈ Finset.Icc (max p.l 1) p.r, 64 ^ (p.r - k) * (w.byte k).toNat := rfl

/-- A field that ends before its first magnitude byte, as `0:0` does. -/
theorem fieldMag_eq_zero {w : Word} {l r : Nat} (h : r < max l 1) : fieldMag w ⟨l, r⟩ = 0 := by
  rw [fieldMag_eq_sum, Finset.Icc_eq_empty (Nat.not_le.2 h), Finset.sum_empty]

/-- One byte more on the right: the bytes before it move up one place. -/
theorem fieldMag_succ {w : Word} {l r : Nat} (h : max l 1 ≤ r + 1) :
    fieldMag w ⟨l, r + 1⟩ = 64 * fieldMag w ⟨l, r⟩ + (w.byte (r + 1)).toNat := by
  have hshift : ∀ k ∈ Finset.Icc (max l 1) r,
      64 ^ (r + 1 - k) * (w.byte k).toNat = 64 * (64 ^ (r - k) * (w.byte k).toNat) := by
    intro k hk
    rw [Nat.succ_sub (Finset.mem_Icc.1 hk).2, pow_succ', mul_assoc]
  simp only [fieldMag_eq_sum]
  rw [Finset.sum_Icc_succ_top h, Finset.sum_congr rfl hshift, ← Finset.mul_sum, Nat.sub_self, pow_zero, one_mul]

/-- A field that ends at byte `r` has at most `r` bytes. -/
theorem fieldMag_lt_pow (w : Word) (l r : Nat) : fieldMag w ⟨l, r⟩ < 64 ^ r := by
  induction r with
  | zero =>
    rw [fieldMag_eq_zero (lt_max_of_lt_right Nat.one_pos)]
    exact Nat.one_pos
  | succ r ih =>
    by_cases h : max l 1 ≤ r + 1
    · have hbyte := (w.byte (r + 1)).isLt
      rw [fieldMag_succ h, pow_succ]
      omega
    · rw [fieldMag_eq_zero (Nat.lt_of_not_le h)]
      positivity

/-- The magnitude of a field that a word has fits in a word. -/
theorem fieldMag_lt (w : Word) {p : FieldSpec} (h : p.r ≤ 5) : fieldMag w p < magLimit :=
  calc fieldMag w p < 64 ^ p.r := fieldMag_lt_pow w p.l p.r
    _ ≤ 64 ^ 5 := Nat.pow_le_pow_right (by decide) h

/-! ### The field as a word -/

@[simp] theorem extractField_sign (w : Word) (p : FieldSpec) :
    (extractField w p).sign = if p.l = 0 then w.sign else .plus := rfl

theorem extractField_mag (w : Word) {p : FieldSpec} (h : p.r ≤ 5) : (extractField w p).mag = fieldMag w p :=
  Word.mag_ofMag _ (fieldMag_lt w h)

theorem extractField_whole (w : Word) : extractField w ⟨0, 5⟩ = w := by
  have hmag : fieldMag w ⟨0, 5⟩ = w.mag := by
    rw [fieldMag_succ (by decide), fieldMag_succ (by decide), fieldMag_succ (by decide), fieldMag_succ (by decide),
      fieldMag_succ (by decide), fieldMag_eq_zero (by decide)]
    simp only [Word.byte, Word.mag]
    omega
  exact Word.ext_of_mag rfl ((extractField_mag w le_rfl).trans hmag)

theorem extractField_lowest (w : Word) : extractField w ⟨5, 5⟩ = ⟨.plus, 0, 0, 0, 0, w.b5⟩ := by
  have hmag : fieldMag w ⟨5, 5⟩ = w.b5.toNat := by
    rw [fieldMag_succ (by decide), fieldMag_eq_zero (by decide)]
    simp [Word.byte]
  refine Word.ext_of_mag rfl ((extractField_mag w le_rfl).trans ?_)
  simp [hmag, Word.mag]

theorem extractField_signOnly (w : Word) : extractField w ⟨0, 0⟩ = ⟨w.sign, 0, 0, 0, 0, 0⟩ := by
  refine Word.ext_of_mag rfl ((extractField_mag w (by decide)).trans ?_)
  rw [fieldMag_eq_zero (by decide)]
  rfl

/-! ### The field by its F byte -/

theorem applyField_eq_none {w : Word} {f : Byte} (h : ¬ (f.toNat / 8 ≤ f.toNat % 8 ∧ f.toNat % 8 ≤ 5)) :
    applyField w f = none := by
  simp [applyField, fieldSpec, h]

theorem applyField_eq_some {w : Word} {f : Byte} (h : f.toNat / 8 ≤ f.toNat % 8) (h' : f.toNat % 8 ≤ 5) :
    applyField w f = some (extractField w ⟨f.toNat / 8, f.toNat % 8⟩) := by
  simp [applyField, fieldSpec, h, h']

/-- Settles O51: an F byte outside the field specifications, every one inside, and the three that the rule quotes. -/
theorem fieldExtraction : Obligations.FieldExtraction := by
  refine ⟨fun w f => applyField_eq_none, fun w f hlr hr => ?_, fun w => ⟨?_, ?_, ?_⟩⟩
  · refine ⟨_, applyField_eq_some hlr hr, extractField_sign w _, ?_⟩
    exact (extractField_mag w hr).trans (fieldMag_eq_sum w _)
  · exact (applyField_eq_some (by decide) (by decide)).trans (congrArg some (extractField_whole w))
  · exact (applyField_eq_some (by decide) (by decide)).trans (congrArg some (extractField_lowest w))
  · exact (applyField_eq_some (by decide) (by decide)).trans (congrArg some (extractField_signOnly w))

end Sys2Proof.Machine
end

section
/-! PROOF. The end of a step (41_cycle.md R210, R211): phase CHECK halts at the first register that is too large, and a
step that passes it counts itself and its cost at its own address. -/

namespace Sys2Proof.Machine

/-- A step whose instruction and device update did not halt ends as phases CHECK, RECORD and STOP do. -/
theorem step_of_ioUpdate {s t t₁ : State} {i : Instr} (hr : s.run = .running) (ha : addrOk s.pc = true)
    (hd : decode (s.wordAt s.pc.toNat) = .ok i) (hx : exec i s = .next t) (ht : t.run = .running)
    (hio : ioUpdate s.pc (cost s i) (armedUnit i) t = .ok t₁) :
    step s = .next (settle (checkRegs s.pc t₁ >>= fun t₂ => .ok (stopPhase s.pc i (record s.pc (cost s i) t₂)))) := by
  rw [step_of_decode hr ha hd hx, finish_of_running ht, hio, Phase.ok_bind]

/-! ### Phase CHECK -/

/-- The converse of `checkRegs_eq_error`: `r` is what the search through the registers finds. -/
theorem checkRegs_of_first {pc0 : Int} {t : State} {pre post : List Reg} {r : Reg}
    (hsplit : checkedRegs = pre ++ r :: post) (hpre : ∀ q ∈ pre, (t.reg q).mag < idxLimit)
    (hbig : idxLimit ≤ (t.reg r).mag) :
    checkRegs pc0 t = .error (t.setRun (.halted .registerOverflow { pc := pc0, reg := some r })) := by
  have hfind : checkedRegs.find? (fun q => decide (idxLimit ≤ (t.reg q).mag)) = some r :=
    List.find?_eq_some_iff_append.2
      ⟨decide_eq_true hbig, pre, post, hsplit, fun q hq => by simpa using hpre q hq⟩
  rw [checkRegs, hfind]
  exact raiseHalt_eq_error.2 rfl

/-- Settles O11: phase CHECK finds `r`, and its halt ends the step. -/
theorem registerCheckHalts : Obligations.RegisterCheckHalts := by
  intro s t t₁ i pre post r hr ha hd hx ht hio hsplit hpre hbig
  rw [step_of_ioUpdate hr ha hd hx ht hio, checkRegs_of_first hsplit hpre hbig, Phase.error_bind, settle_error]

/-! ### Phase RECORD -/

/-- No step is free, so the time counter of a cell that was executed is never the default of its table. -/
theorem cost_pos (s : State) (i : Instr) : 0 < cost s i := by
  unfold cost
  split
  · omega
  · split
    · unfold ioCost; omega
    · exact Nat.succ_pos _

/-- A counter that grows reads as its new value, in a canonical table or not. -/
theorem tableRead_write_add (l : Counters) (n : Nat) {k : Nat} (hk : 0 < k) :
    tableRead 0 (tableWrite 0 l n (tableRead 0 l n + k)) n = tableRead 0 l n + k :=
  tableRead_write_self_of_ne l n (by omega)

theorem record_counters_self (pc0 : Int) {c : Nat} (hc : 0 < c) (s : State) :
    tableRead 0 (record pc0 c s).execCount pc0.toNat = tableRead 0 s.execCount pc0.toNat + 1 ∧
      tableRead 0 (record pc0 c s).execTime pc0.toNat = tableRead 0 s.execTime pc0.toNat + c :=
  ⟨tableRead_write_add s.execCount _ Nat.one_pos, tableRead_write_add s.execTime _ hc⟩

theorem record_counters_of_ne (pc0 : Int) (c : Nat) (s : State) {n : Nat} (hn : n ≠ pc0.toNat) :
    tableRead 0 (record pc0 c s).execCount n = tableRead 0 s.execCount n ∧
      tableRead 0 (record pc0 c s).execTime n = tableRead 0 s.execTime n :=
  ⟨tableRead_write_of_ne s.execCount _ hn, tableRead_write_of_ne s.execTime _ hn⟩

/-- Phase RECORD changes the counters alone, and a run state put on top of it nothing more. -/
theorem frame_of_record_setRun (pc0 : Int) (c : Nat) (s : State) (ρ : RunState) :
    regsKept [] s ((record pc0 c s).setRun ρ) ∧ memKept s ((record pc0 c s).setRun ρ) ∧
      flagsKept s ((record pc0 c s).setRun ρ) ∧ devicesKept s ((record pc0 c s).setRun ρ) ∧
      ((record pc0 c s).setRun ρ).pc = s.pc :=
  ⟨fun q _ => by cases q <;> rfl, fun _ => rfl, ⟨rfl, rfl⟩, ⟨rfl, rfl, rfl⟩, rfl⟩

/-- Phase STOP can change the run state alone. -/
theorem stopPhase_eq_setRun (pc0 : Int) (i : Instr) (s : State) : ∃ ρ, stopPhase pc0 i s = s.setRun ρ := by
  unfold stopPhase
  split
  · exact ⟨_, rfl⟩
  · exact ⟨s.run, rfl⟩

/-- Neither an instruction that completes nor the device update counts anything. -/
theorem counters_of_ioUpdate {s t t₁ : State} {i : Instr} {pc0 : Int} {c : Nat} {armed : Option Nat}
    (hx : exec i s = .next t) (ht : t.run = .running) (hio : ioUpdate pc0 c armed t = .ok t₁) :
    t₁.execCount = s.execCount ∧ t₁.execTime = s.execTime := by
  obtain ⟨⟨-, -, -, hcount, htime, -⟩, -⟩ := updateUnits_ok _ hio
  rcases exec_ends_or_halts hx with hends | hhalts
  · exact ⟨hcount.trans hends.execCount, htime.trans hends.execTime⟩
  · obtain ⟨reason, info, hhalted⟩ := execHalts_halted hhalts
    rw [hhalted] at ht
    cases ht

/-- Settles O12: the step ends in RECORD and STOP, the counters before RECORD are those of `s`, and RECORD writes one
cell of each table. -/
theorem profilingRecord : Obligations.ProfilingRecord := by
  intro s t t₁ i hr ha hd hx ht hio hregs
  have hcheck : checkRegs s.pc t₁ = .ok t₁ := checkRegs_eq_ok.2 ⟨hregs, rfl⟩
  obtain ⟨ρ, hstop⟩ := stopPhase_eq_setRun s.pc i (record s.pc (cost s i) t₁)
  have hstep : step s = .next ((record s.pc (cost s i) t₁).setRun ρ) := by
    rw [step_of_ioUpdate hr ha hd hx ht hio, hcheck, Phase.ok_bind, settle_ok, hstop]
  obtain ⟨hcount, htime⟩ := counters_of_ioUpdate hx ht hio
  rw [← hcount, ← htime]
  obtain ⟨hcount', htime'⟩ := record_counters_self s.pc (cost_pos s i) t₁
  exact ⟨_, hstep, hcount', htime', fun n hn => record_counters_of_ne s.pc (cost s i) t₁ hn,
    frame_of_record_setRun s.pc (cost s i) t₁ ρ⟩

end Sys2Proof.Machine
end

section
/-! PROOF. Encoding and decoding (30_encoding.md R100 to R109): the two are inverse to each other, and a packed word
unpacks to itself. -/

namespace Sys2Proof.Machine

/-! ### Words and packed words -/

theorem packWord_eq (w : Word) : packWord w = (if w.sign = .minus then 2 ^ 30 else 0) + w.mag := by
  cases h : w.sign <;> simp [packWord, h]

theorem packWord_lt (w : Word) : packWord w < 2 ^ 31 := by
  have hmag := w.mag_lt
  rw [packWord_eq]
  split <;> simp only [magLimit] at hmag <;> omega

theorem packWord_div (w : Word) : packWord w / 2 ^ 30 = if w.sign = .minus then 1 else 0 := by
  have hmag := w.mag_lt
  rw [packWord_eq]
  split <;> simp only [magLimit] at hmag <;> omega

theorem packWord_mod (w : Word) : packWord w % 2 ^ 30 = w.mag := by
  have hmag := w.mag_lt
  rw [packWord_eq]
  split <;> simp only [magLimit] at hmag <;> omega

theorem unpackWord_packWord (w : Word) : unpackWord (packWord w) = w := by
  have hmag : packWord w % 1073741824 = w.mag := packWord_mod w
  have hsign : packWord w / 1073741824 = if w.sign = .minus then 1 else 0 := packWord_div w
  unfold unpackWord
  rw [hmag, hsign]
  refine Eq.trans ?_ (Word.ofMag_mag w)
  cases w.sign <;> rfl

/-- Byte `k` is the digit of the magnitude, base 64, at place `5 - k`. -/
theorem Word.mag_div_mod (w : Word) {k : Nat} (h1 : 1 ≤ k) (h5 : k ≤ 5) :
    w.mag / 2 ^ (30 - 6 * k) % 64 = (w.byte k).toNat := by
  have h := w.b1.isLt; have := w.b2.isLt; have := w.b3.isLt; have := w.b4.isLt; have := w.b5.isLt
  simp only [Word.mag]
  interval_cases k <;> simp only [Word.byte] <;> omega

/-- The sign bit stands above every byte. -/
theorem packWord_div_mod (w : Word) {k : Nat} (h1 : 1 ≤ k) (h5 : k ≤ 5) :
    packWord w / 2 ^ (30 - 6 * k) % 64 = (w.byte k).toNat := by
  rw [← Word.mag_div_mod w h1 h5, packWord_eq]
  split
  · interval_cases k <;> omega
  · rw [Nat.zero_add]

/-- Settles O4: the sign bit and the magnitude do not overlap. -/
theorem packingLayout : Obligations.PackingLayout := fun w =>
  ⟨packWord_eq w, packWord_lt w, packWord_div w, fun _ => packWord_div_mod w, unpackWord_packWord w⟩

/-! ### Decoding an encoded instruction -/

theorem addrOfWord_wordOfParts (m : Addr) (f c : Byte) : addrOfWord (wordOfParts m f c) = m := by
  obtain ⟨s, a, i⟩ := m
  have hbytes : a.extractLsb' 6 6 ++ a.extractLsb' 0 6 = a :=
    (BitVec.extractLsb'_append_extractLsb'_eq_extractLsb' rfl).trans BitVec.extractLsb'_eq_self
  simp only [addrOfWord, wordOfParts, hbytes]

theorem wordOfParts_addrOfWord (w : Word) : wordOfParts (addrOfWord w) w.b4 w.b5 = w := by
  obtain ⟨s, b1, b2, b3, b4, b5⟩ := w
  simp only [addrOfWord, wordOfParts, BitVec.extractLsb'_append_eq_left, BitVec.extractLsb'_append_eq_right]

theorem parts_fst (i : Instr) : i.parts.1 = i.addr := by cases i <;> rfl

theorem addrOfWord_encode (i : Instr) : addrOfWord (encode i) = i.addr :=
  (addrOfWord_wordOfParts _ _ _).trans (parts_fst i)

/-- Each of the 144 cases of `LookupEncode`, by evaluation of the lookup on the two bytes. -/
theorem lookupInstr_encode (i : Instr) : Laws.LookupEncode.Statement i := by cases i <;> rfl

theorem decode_encode (i : Instr) : decode (encode i) = .ok i := by
  have hlookup : lookupInstr (encode i).b5 (encode i).b4 i.addr = some i := lookupInstr_encode i
  unfold decode
  rw [addrOfWord_encode, hlookup]

/-- Settles O1: the lookup inverts the encoder's two bytes, the address part its three, and unpacking its packing. -/
theorem decodeOfEncode : Obligations.DecodeOfEncode := by
  intro i
  refine ⟨decode_encode i, ?_⟩
  have hpack : packWord (encode i) < 2147483648 := packWord_lt (encode i)
  have hmod : packWord (encode i) % 2 ^ 32 = packWord (encode i) := Nat.mod_eq_of_lt (by omega)
  unfold decodeTableWord
  rw [hmod, if_pos hpack, unpackWord_packWord, decode_encode]

/-! ### Encoding a decoded word -/

theorem decode_eq_ok {w : Word} {i : Instr} :
    decode w = .ok i ↔ lookupInstr w.b5 w.b4 (addrOfWord w) = some i := by
  unfold decode
  split <;> rename_i h <;> simp [h]

theorem decode_eq_error {w : Word} (h : lookupInstr w.b5 w.b4 (addrOfWord w) = none) :
    decode w = .error (.undefinedVariant w.b5 w.b4) := by
  unfold decode
  rw [h]

/-- The lookup finds only instructions with the bytes it was given: an entry of the opcode map or of a variant list. -/
theorem parts_of_lookupInstr {c f : Byte} {m : Addr} {i : Instr} (h : lookupInstr c f m = some i) :
    i.parts = (m, f, c) := by
  have bytes {k l : Byte} (hk : f.toNat = k.toNat) (hl : c.toNat = l.toNat) : (m, k, l) = (m, f, c) := by
    rw [BitVec.eq_of_toNat_eq hk, BitVec.eq_of_toNat_eq hl]
  have hf : f.toNat = f.toNat := rfl
  unfold lookupInstr at h
  split at h
  case h_64 =>
    cases h
    have hc := c.isLt
    simp only [imp_false] at *
    exact bytes rfl (show c.toNat = 63 by omega)
  all_goals try split at h
  all_goals cases h <;> exact bytes (by assumption) (by assumption)

theorem encode_of_decode {w : Word} {i : Instr} (h : decode w = .ok i) : encode i = w := by
  have hparts : i.parts = (addrOfWord w, w.b4, w.b5) := parts_of_lookupInstr (decode_eq_ok.1 h)
  unfold encode
  rw [hparts]
  exact wordOfParts_addrOfWord w

/-- Settles O2: the lookup keeps the two bytes it reads, and the address part the other three. -/
theorem encodeOfDecoded : Obligations.EncodeOfDecoded := fun _ _ => encode_of_decode

theorem opByte_of_decode {w : Word} {i : Instr} (h : decode w = .ok i) : opByte i = w.b5.toNat := by
  unfold opByte
  rw [encode_of_decode h]

theorem fByte_of_decode {w : Word} {i : Instr} (h : decode w = .ok i) : fByte i = w.b4.toNat := by
  unfold fByte
  rw [encode_of_decode h]

theorem addr_of_decode {w : Word} {i : Instr} (h : decode w = .ok i) : i.addr = addrOfWord w := by
  rw [← addrOfWord_encode, encode_of_decode h]

/-- Settles O5: the lookup evaluated on the bytes of eight words. -/
theorem sampleWordsDecode : Obligations.SampleWordsDecode :=
  ⟨rfl, rfl, rfl, rfl, rfl, rfl, rfl, rfl⟩

/-! ### Undefined variants -/

/-- The lookup finds an instruction exactly where the opcode has no variants, or F is one of them. -/
theorem lookupInstr_isSome_iff (c f : Byte) (m : Addr) :
    (lookupInstr c f m).isSome = true ↔ ∀ k, variantCount c.toNat = some k → f.toNat < k := by
  unfold lookupInstr
  split <;> rename_i hc
  case h_64 =>
    have hlt := c.isLt
    simp only [imp_false] at *
    rw [show c.toNat = 63 by omega]
    simp [variantCount]
  all_goals rw [hc]
  all_goals try split
  all_goals try simp only [imp_false] at *
  all_goals simp [variantCount]; try omega

theorem exists_decode_iff {w : Word} :
    (∃ i, decode w = .ok i) ↔ ∀ k, variantCount w.b5.toNat = some k → w.b4.toNat < k := by
  rw [← lookupInstr_isSome_iff w.b5 w.b4 (addrOfWord w), Option.isSome_iff_exists]
  exact exists_congr fun _ => decode_eq_ok

end Sys2Proof.Machine
end

section
/-! PROOF. The first phases of a step (41_cycle.md R200 to R206): the fetch, the lookup, the index check, and the
instruction that the word at pc decodes to. -/

namespace Sys2Proof.Machine

/-! ### A step by its phases -/

/-- Settles O10: `running_of_step`, and in a RUNNING state every instruction answers a next state. -/
theorem stepExistsExactlyWhileRunning : Obligations.StepExistsExactlyWhileRunning := by
  intro s
  cases hr : s.run with
  | halted reason info =>
    have hstep : step s = .fault .haltedHasNoStep := by unfold step; rw [hr]
    simp [hstep]
  | running =>
    refine ⟨⟨fun _ => rfl, fun _ => ?_⟩, fun h => absurd rfl h⟩
    unfold step
    rw [hr]
    cases fetch s with
    | error h => exact ⟨h, rfl⟩
    | ok i =>
      simp only [exec_eq_shape, outcome]
      exact ⟨_, rfl⟩

theorem step_of_fetch_eq_error {s h : State} (hr : s.run = .running) (hf : fetch s = .error h) :
    step s = .next h := by
  unfold step
  rw [hr, hf]

theorem step_of_addrOk_eq_false {s : State} (hr : s.run = .running) (ha : addrOk s.pc = false) :
    step s = .next (s.setRun (.halted .illegalAddress { pc := s.pc, addr := some s.pc })) :=
  step_of_fetch_eq_error hr (by rw [fetch, memRead_eq_error.2 ⟨ha, rfl⟩]; rfl)

theorem step_of_decode_eq_error {s : State} {e : DecodeError} (hr : s.run = .running) (ha : addrOk s.pc = true)
    (hd : decode (s.wordAt s.pc.toNat) = .error e) : step s = .next (s.haltedFor .invalidOpcodeOrVariant) :=
  step_of_fetch_eq_error hr (by rw [fetch, memRead_eq_ok.2 ⟨ha, rfl⟩, Phase.ok_bind, hd]; rfl)

/-- An instruction that halts ends the step. -/
theorem step_of_exec_halted {s t : State} {i : Instr} {reason : HaltReason} {info : HaltInfo} (hr : s.run = .running)
    (ha : addrOk s.pc = true) (hd : decode (s.wordAt s.pc.toNat) = .ok i) (hx : exec i s = .next t)
    (ht : t.run = .halted reason info) : step s = .next t := by
  rw [step_of_decode hr ha hd hx, finish_of_halted ht]

/-- Settles O9: an address outside 0..3999 is not read. -/
theorem fetchOutOfRangeHalts : Obligations.FetchOutOfRangeHalts := by
  intro s hr hpc
  refine step_of_addrOk_eq_false hr ?_
  rw [← Bool.not_eq_true, addrOk_iff]
  omega

/-- Settles O8: the phases of `finish`, one after another. -/
theorem stepRunsTheDecodedInstruction : Obligations.StepRunsTheDecodedInstruction := by
  intro s i hr ha hd
  obtain ⟨t, hx⟩ : ∃ t, exec i s = .next t := ⟨_, exec_eq_shape i s⟩
  refine ⟨t, hx, fun ⟨reason, info, ht⟩ => step_of_exec_halted hr ha hd hx ht, fun ht => ⟨fun h hio => ?_, ?_⟩⟩
  · rw [step_of_decode hr ha hd hx, finish_of_running ht, hio, Phase.error_bind, settle_error]
  · intro t₁ hio
    rw [step_of_ioUpdate hr ha hd hx ht hio]
    refine ⟨fun h hcheck => ?_, fun t₂ hcheck => ?_⟩
    · rw [hcheck, Phase.error_bind, settle_error]
    · rw [hcheck, Phase.ok_bind, settle_ok]

/-! ### The index check -/

theorem effAddr_of_index_gt {m : Addr} (h : 6 < m.idx.toNat) (s : State) :
    effAddr m s = .error (s.haltedFor .invalidOpcodeOrVariant) := by
  have hnone : indexReg m.idx = none := by
    rw [← Option.not_isSome_iff_eq_none, indexReg_isSome_iff]
    omega
  exact effAddr_eq_error.2 ⟨hnone, rfl⟩

theorem fieldOperand_of_effAddr_eq_error {m : Addr} {f : Byte} {s h : State} (hm : effAddr m s = .error h) :
    fieldOperand m f s = .error h := by
  rw [fieldOperand, hm, Phase.error_bind]

theorem shiftBits_of_effAddr_eq_error {m : Addr} {s h : State} (hm : effAddr m s = .error h) :
    shiftBits m s = .error h := by
  rw [shiftBits, hm, Phase.error_bind]

/-- Every operation forms M first. -/
theorem shape_run_of_effAddr_eq_error {m : Addr} {s h : State} (hm : effAddr m s = .error h) (sh : Shape) :
    sh.run m s = .error h := by
  have hv (f : Byte) : fieldOperand m f s = .error h := fieldOperand_of_effAddr_eq_error hm
  have hn : shiftBits m s = .error h := shiftBits_of_effAddr_eq_error hm
  cases sh with
  | load r f => exact loadReg_error (hv f)
  | loadNeg r f => exact loadNegReg_error (hv f)
  | store v f => exact storeWord_error (hv f)
  | add f => exact addToA_error (hv f)
  | sub f => exact subFromA_error (hv f)
  | mul f => exact multiplyA_error (hv f)
  | div f => exact divideAX_error (hv f)
  | num => exact numToA_error hm
  | char => exact charFromA_error hm
  | hlt => exact haltInstr_error hm
  | nop => exact noOperation_error hm
  | shiftA sh => exact shiftA_error hn
  | shiftAX sh => exact shiftAX_error hn
  | move f => exact moveBlock_error_addr hm
  | compare r f => exact compareReg_error (hv f)
  | jump => exact jumpAlways_error hm
  | jumpSave => exact jumpSaveJ_error hm
  | jumpOv => exact jumpOverflow_error hm
  | jumpNov => exact jumpNoOverflow_error hm
  | jumpCi t => exact jumpCi_error hm
  | jumpReg r t => exact jumpReg_error hm
  | inc r => exact incReg_error hm
  | dec r => exact decReg_error hm
  | ent r => exact entReg_error hm
  | enn r => exact ennReg_error hm
  | jumpBusy f | jumpReady f | startIo op f | control f =>
    simp only [Shape.run, jumpBusy, jumpReady, startIo, controlUnit, hm, Phase.error_bind]

theorem exec_of_effAddr_eq_error {i : Instr} {s h : State} (hm : effAddr i.addr s = .error h) :
    exec i s = .next h := by
  rw [exec_eq_shape, shape_run_of_effAddr_eq_error hm]
  rfl

/-- Settles O7: the word is no instruction, or its instruction halts as it forms M. -/
theorem indexByteAboveSixHalts : Obligations.IndexByteAboveSixHalts := by
  intro s hr ha hidx
  cases hd : decode (s.wordAt s.pc.toNat) with
  | error e => exact step_of_decode_eq_error hr ha hd
  | ok i =>
    have hi : 6 < i.addr.idx.toNat := by rwa [addr_of_decode hd]
    exact step_of_exec_halted hr ha hd (exec_of_effAddr_eq_error (effAddr_of_index_gt hi s)) rfl

/-! ### The variants -/

/-- The opcodes ADD, SUB, MUL, DIV and CMPA have a field, whatever F is. -/
theorem decode_of_fieldOpcode {w : Word} (h : w.b5.toNat ∈ [1, 2, 3, 4, 56]) :
    ∃ e ∈ fieldForms, decode w = .ok (e (addrOfWord w) w.b4) := by
  have found {e : Addr → Byte → Instr} (he : e ∈ fieldForms)
      (hl : lookupInstr w.b5 w.b4 (addrOfWord w) = some (e (addrOfWord w) w.b4)) :
      ∃ e ∈ fieldForms, decode w = .ok (e (addrOfWord w) w.b4) := ⟨e, he, decode_eq_ok.2 hl⟩
  simp only [List.mem_cons, List.not_mem_nil, or_false] at h
  rcases h with h | h | h | h | h
  · exact found (e := .add) (by simp [fieldForms]) (by simp [lookupInstr, h])
  · exact found (e := .sub) (by simp [fieldForms]) (by simp [lookupInstr, h])
  · exact found (e := .mul) (by simp [fieldForms]) (by simp [lookupInstr, h])
  · exact found (e := .div) (by simp [fieldForms]) (by simp [lookupInstr, h])
  · exact found (e := .cmpa) (by simp [fieldForms, compareForms]) (by simp [lookupInstr, h])

/-- Settles O3: the lookup's domain, the halt of a word outside it, and the field check on F = 6. -/
theorem undefinedVariantsHalt : Obligations.UndefinedVariantsHalt := by
  intro s hr ha
  refine ⟨exists_decode_iff, fun ⟨k, hk, hle⟩ => ?_, fun hc hf hi => ?_⟩
  · cases hd : decode (s.wordAt s.pc.toNat) with
    | error e => exact step_of_decode_eq_error hr ha hd
    | ok i => exact absurd (exists_decode_iff.1 ⟨i, hd⟩ k hk) (Nat.not_lt.2 hle)
  · obtain ⟨e, he, hd⟩ := decode_of_fieldOpcode hc
    have hindex : (addrOfWord (s.wordAt s.pc.toNat)).indexOk = true := decide_eq_true hi
    have hspec : fieldSpec (s.wordAt s.pc.toNat).b4 = none := fieldSpec_eq_none_iff.2 (by omega)
    have hx := exec_of_fieldOperand_eq_error he (fieldOperand_of_fieldSpec_eq_none (s := s) hindex hspec)
    exact step_of_exec_halted hr ha hd hx rfl

end Sys2Proof.Machine
end

section
/-! PROOF. The timer update (49_io.md R494) as the turns of units 0..20, one after another. A run of the update over the
units below `n` is `updateUnits pc0 c armed (List.range n) s`; each lemma says what the next turn adds to it. -/

namespace Sys2Proof.Machine

variable {pc0 : Int} {c u n : Nat} {armed : Option Nat} {s a b h t : State}

/-! ### One turn -/

/-- A unit's turn, told by the record that the unit had when the update began. -/
theorem unitTurn_eq_ok (hu : u < a.devs.length) (hd : a.dev u = s.dev u) :
    unitTurn pc0 c armed u a = .ok b ↔ turnLeads pc0 c armed s u a b := by
  have hcross : crosses a u c ↔ crosses s u c := by unfold crosses; rw [hd]
  unfold unitTurn turnLeads
  by_cases harmed : armed = some u
  · simp [harmed, eq_comm]
  · by_cases hc : crosses s u c
    · simp [harmed, hc, updateUnit_of_crosses (hcross.2 hc)]
    · simp [harmed, hc, updateUnit_of_not_crosses hu (mt hcross.1 hc), eq_comm]

theorem unitTurn_eq_error (hu : u < a.devs.length) (hd : a.dev u = s.dev u) :
    unitTurn pc0 c armed u a = .error h ↔
      armed ≠ some u ∧ crosses s u c ∧ transfer pc0 u (a.lowerTimer u c) = .error h := by
  have hcross : crosses a u c ↔ crosses s u c := by unfold crosses; rw [hd]
  unfold unitTurn
  by_cases harmed : armed = some u
  · simp [harmed]
  · by_cases hc : crosses s u c
    · simp [harmed, hc, updateUnit_of_crosses (hcross.2 hc)]
    · simp [harmed, hc, updateUnit_of_not_crosses hu (mt hcross.1 hc)]

/-- A turn lowers the timer of its unit, unless that is the armed one, and changes no other record. -/
theorem turnLeads_dev (hu : u < a.devs.length) (hd : a.dev u = s.dev u) (ht : turnLeads pc0 c armed s u a b) :
    b.devs.length = a.devs.length ∧
      b.dev u = (if armed = some u then s.dev u else { s.dev u with timer := (s.dev u).timer - c }) ∧
      ∀ v, v ≠ u → b.dev v = a.dev v := by
  obtain ⟨hskip, hlower, htransfer⟩ := ht
  by_cases harmed : armed = some u
  · rw [hskip harmed, if_pos harmed]
    exact ⟨rfl, hd, fun v _ => rfl⟩
  · have hdevs : b.devs = (a.lowerTimer u c).devs := by
      by_cases hc : crosses s u c
      · obtain ⟨-, hdevs, -⟩ := transfer_ok (htransfer harmed hc)
        exact hdevs
      · rw [hlower harmed hc]
    refine ⟨by rw [hdevs, State.lowerTimer_length], ?_, fun v hv => ?_⟩
    · rw [State.dev_congr hdevs, State.lowerTimer_dev_self c hu, hd, if_neg harmed]
    · rw [State.dev_congr hdevs, State.lowerTimer_dev_of_ne c hv]

/-! ### The turns of the units below `n` -/

theorem updateUnits_range_succ (n : Nat) (s : State) :
    updateUnits pc0 c armed (List.range (n + 1)) s =
      updateUnits pc0 c armed (List.range n) s >>= fun a => unitTurn pc0 c armed n a := by
  rw [List.range_succ, updateUnits_append]
  congr 1
  funext a
  simp only [updateUnits]
  cases unitTurn pc0 c armed n a <;> rfl

/-- After the turns of the units below `n`: their timers have fallen, but for the armed unit's; no other record has
changed. -/
theorem updateUnits_range_dev (hs : s.devs.length = 21) (hn : n ≤ 21)
    (h : updateUnits pc0 c armed (List.range n) s = .ok t) :
    t.devs.length = 21 ∧
      (∀ v, v < n → t.dev v = if armed = some v then s.dev v else { s.dev v with timer := (s.dev v).timer - c }) ∧
      ∀ v, n ≤ v → t.dev v = s.dev v := by
  induction n generalizing t with
  | zero =>
    cases h
    exact ⟨hs, fun v hv => absurd hv (Nat.not_lt_zero v), fun v _ => rfl⟩
  | succ n ih =>
    rw [updateUnits_range_succ, Phase.bind_eq_ok] at h
    obtain ⟨a, ha, ht⟩ := h
    obtain ⟨hlen, hbelow, habove⟩ := ih (by omega) ha
    obtain ⟨hlen', hself, hothers⟩ :=
      turnLeads_dev (by omega) (habove n le_rfl) ((unitTurn_eq_ok (by omega) (habove n le_rfl)).1 ht)
    refine ⟨hlen'.trans hlen, fun v hv => ?_, fun v hv => ?_⟩
    · rcases Nat.lt_succ_iff_lt_or_eq.1 hv with hlt | rfl
      · rw [hothers v (by omega), hbelow v hlt]
      · exact hself
    · rw [hothers v (by omega), habove v (by omega)]

theorem updateUnits_succ_eq_ok (hs : s.devs.length = 21) (hn : n < 21) :
    updateUnits pc0 c armed (List.range (n + 1)) s = .ok t ↔
      ∃ a, updateUnits pc0 c armed (List.range n) s = .ok a ∧ turnLeads pc0 c armed s n a t := by
  rw [updateUnits_range_succ, Phase.bind_eq_ok]
  refine exists_congr fun a => and_congr_right fun ha => ?_
  obtain ⟨hlen, -, habove⟩ := updateUnits_range_dev hs (by omega) ha
  exact unitTurn_eq_ok (by omega) (habove n le_rfl)

theorem updateUnits_succ_eq_error (hs : s.devs.length = 21) (hn : n < 21) :
    updateUnits pc0 c armed (List.range (n + 1)) s = .error h ↔
      updateUnits pc0 c armed (List.range n) s = .error h ∨
      ∃ a, updateUnits pc0 c armed (List.range n) s = .ok a ∧ armed ≠ some n ∧ crosses s n c ∧
        transfer pc0 n (a.lowerTimer n c) = .error h := by
  rw [updateUnits_range_succ, Phase.bind_eq_error]
  refine or_congr_right (exists_congr fun a => and_congr_right fun ha => ?_)
  obtain ⟨hlen, -, habove⟩ := updateUnits_range_dev hs (by omega) ha
  exact unitTurn_eq_error (by omega) (habove n le_rfl)

/-- An update that fails does so in the turn of one unit, after the turns of the units below it. -/
theorem updateUnits_eq_error (hs : s.devs.length = 21) (hn : n ≤ 21) :
    updateUnits pc0 c armed (List.range n) s = .error h ↔
      ∃ u a, u < n ∧ updateUnits pc0 c armed (List.range u) s = .ok a ∧ armed ≠ some u ∧ crosses s u c ∧
        transfer pc0 u (a.lowerTimer u c) = .error h := by
  induction n with
  | zero => simp [updateUnits]
  | succ n ih =>
    rw [updateUnits_succ_eq_error hs (by omega), ih (by omega)]
    constructor
    · rintro (⟨u, a, hu, hfail⟩ | ⟨a, hfail⟩)
      · exact ⟨u, a, by omega, hfail⟩
      · exact ⟨n, a, by omega, hfail⟩
    · rintro ⟨u, a, hu, hfail⟩
      rcases Nat.lt_succ_iff_lt_or_eq.1 hu with hlt | rfl
      · exact .inl ⟨u, a, hlt, hfail⟩
      · exact .inr ⟨a, hfail⟩

/-- The states between the turns, as a sequence. -/
theorem updateUnits_eq_ok_iff_exists_seq (hs : s.devs.length = 21) (hn : n ≤ 21) :
    updateUnits pc0 c armed (List.range n) s = .ok t ↔
      ∃ σ : Nat → State, σ 0 = s ∧ σ n = t ∧ ∀ u, u < n → turnLeads pc0 c armed s u (σ u) (σ (u + 1)) := by
  induction n generalizing t with
  | zero =>
    refine ⟨fun h => ⟨fun _ => s, rfl, by cases h; rfl, fun u hu => absurd hu (Nat.not_lt_zero u)⟩, ?_⟩
    rintro ⟨σ, h0, ht, -⟩
    rw [← ht, h0]
    rfl
  | succ n ih =>
    rw [updateUnits_succ_eq_ok hs (by omega)]
    constructor
    · rintro ⟨a, ha, hlast⟩
      obtain ⟨σ, h0, hσ, hturns⟩ := (ih (by omega)).1 ha
      refine ⟨Function.update σ (n + 1) t, ?_, Function.update_self .., fun u hu => ?_⟩
      · rw [Function.update_of_ne (by omega), h0]
      · rw [Function.update_of_ne (by omega)]
        rcases Nat.lt_succ_iff_lt_or_eq.1 hu with hlt | rfl
        · rw [Function.update_of_ne (by omega)]
          exact hturns u hlt
        · rw [Function.update_self, hσ]
          exact hlast
    · rintro ⟨σ, h0, rfl, hturns⟩
      exact ⟨σ n, (ih (by omega)).2 ⟨σ, h0, rfl, fun u hu => hturns u (by omega)⟩, hturns n (by omega)⟩

/-- Settles O59: the two characterisations of the turns of the units below 21. -/
theorem eachCrossingTransfersOnce : Obligations.EachCrossingTransfersOnce := by
  intro pc0 c armed s hs
  refine ⟨fun t => updateUnits_eq_ok_iff_exists_seq hs le_rfl, fun h => (updateUnits_eq_error hs le_rfl).trans ?_⟩
  constructor
  · rintro ⟨u, a, hu, ha, hfail⟩
    obtain ⟨σ, h0, rfl, hturns⟩ := (updateUnits_eq_ok_iff_exists_seq hs (by omega)).1 ha
    exact ⟨σ, u, hu, h0, hturns, hfail⟩
  · rintro ⟨σ, u, hu, h0, hturns, hfail⟩
    exact ⟨u, σ u, hu, (updateUnits_eq_ok_iff_exists_seq hs (by omega)).2 ⟨σ, h0, rfl, hturns⟩, hfail⟩

/-! ### Updates with one crossing or none -/

theorem updateUnits_error_of_le (hs : s.devs.length = 21) {m : Nat} (hm : m ≤ n) (hn : n ≤ 21)
    (he : updateUnits pc0 c armed (List.range m) s = .error h) :
    updateUnits pc0 c armed (List.range n) s = .error h := by
  obtain ⟨u, a, hu, hfail⟩ := (updateUnits_eq_error hs (by omega)).1 he
  exact (updateUnits_eq_error hs hn).2 ⟨u, a, by omega, hfail⟩

/-- Turns without a crossing succeed and leave memory and the host alone. -/
theorem updateUnits_extend (hs : s.devs.length = 21) {m : Nat}
    (ha : updateUnits pc0 c armed (List.range m) s = .ok a) (hm : m ≤ n) (hn : n ≤ 21)
    (hno : ∀ v, m ≤ v → v < n → armed = some v ∨ ¬ crosses s v c) :
    ∃ t, updateUnits pc0 c armed (List.range n) s = .ok t ∧ t.mem = a.mem ∧ t.hostIn = a.hostIn ∧
      t.hostLog = a.hostLog := by
  induction n, hm using Nat.le_induction with
  | base => exact ⟨a, ha, rfl, rfl, rfl⟩
  | succ n hm ih =>
    obtain ⟨t, ht, hmem, hin, hlog⟩ := ih (by omega) fun v hv hlt => hno v hv (by omega)
    by_cases harmed : armed = some n
    · refine ⟨t, (updateUnits_succ_eq_ok hs (by omega)).2 ⟨t, ht, ?_⟩, hmem, hin, hlog⟩
      exact ⟨fun _ => rfl, fun hne => absurd harmed hne, fun hne => absurd harmed hne⟩
    · have hc : ¬ crosses s n c := (hno n hm (by omega)).resolve_left harmed
      refine ⟨t.lowerTimer n c, (updateUnits_succ_eq_ok hs (by omega)).2 ⟨t, ht, ?_⟩, hmem, hin, hlog⟩
      exact ⟨fun heq => absurd heq harmed, fun _ _ => rfl, fun _ hcross => absurd hcross hc⟩

theorem State.lowerTimers_succ_of_armed (s : State) (h : armed = some n) :
    s.lowerTimers c armed (n + 1) = s.lowerTimers c armed n := if_pos h

theorem State.lowerTimers_succ_of_ne (s : State) (h : armed ≠ some n) :
    s.lowerTimers c armed (n + 1) = (s.lowerTimers c armed n).lowerTimer n c := if_neg h

theorem updateUnits_of_not_crosses (hs : s.devs.length = 21) (hn : n ≤ 21)
    (hno : ∀ v, v < n → armed = some v ∨ ¬ crosses s v c) :
    updateUnits pc0 c armed (List.range n) s = .ok (s.lowerTimers c armed n) := by
  induction n with
  | zero => rfl
  | succ n ih =>
    refine (updateUnits_succ_eq_ok hs (by omega)).2 ⟨_, ih (by omega) fun v hv => hno v (by omega), ?_⟩
    by_cases harmed : armed = some n
    · rw [State.lowerTimers_succ_of_armed s harmed]
      exact ⟨fun _ => rfl, fun hne => absurd harmed hne, fun hne => absurd harmed hne⟩
    · rw [State.lowerTimers_succ_of_ne s harmed]
      have hc : ¬ crosses s n c := (hno n (by omega)).resolve_left harmed
      exact ⟨fun heq => absurd heq harmed, fun _ _ => rfl, fun _ hcross => absurd hcross hc⟩

/-- What an update that fails leaves: the units below the failing one have had their turn, the units above it not. -/
theorem ioUpdate_eq_error (hs : s.devs.length = 21) (he : ioUpdate pc0 c armed s = .error h) :
    ∃ u text, u ≤ 20 ∧ armed ≠ some u ∧ crosses s u c ∧
      h.run = .halted .deviceError { pc := pc0, unit := some u, text := some text } ∧
      h.dev u = { s.dev u with timer := (s.dev u).timer - c, lastError := some text } ∧
      (∀ v, v < u → h.dev v = if armed = some v then s.dev v else { s.dev v with timer := (s.dev v).timer - c }) ∧
      (∀ v, u < v → h.dev v = s.dev v) := by
  obtain ⟨u, a, hu, ha, harmed, hc, hfail⟩ := (updateUnits_eq_error hs le_rfl).1 he
  obtain ⟨hlen, hbelow, habove⟩ := updateUnits_range_dev hs (by omega) ha
  obtain ⟨text, -, -, hrun, hself, hothers, -⟩ := transfer_halts hfail
  refine ⟨u, text, by omega, harmed, hc, hrun, ?_, fun v hv => ?_, fun v hv => ?_⟩
  · rw [hself (by rw [State.lowerTimer_length]; omega), State.lowerTimer_dev_self c (by omega), habove u le_rfl]
  · rw [hothers v (by omega), State.lowerTimer_dev_of_ne c (by omega), hbelow v hv]
  · rw [hothers v (by omega), State.lowerTimer_dev_of_ne c (by omega), habove v (by omega)]

/-- Settles O54: the turns one by one, stopped at the first crossing for its last clause. -/
theorem timerUpdate : Obligations.TimerUpdate := by
  intro pc0 c armed s hs
  refine ⟨fun t ht => ?_, fun h he => ?_, fun hno => ?_, ?_⟩
  · obtain ⟨hcore, hrun, -⟩ := updateUnits_ok _ ht
    obtain ⟨-, hbelow, -⟩ := updateUnits_range_dev hs le_rfl ht
    exact ⟨hcore, hrun, fun u hu => hbelow u (by omega)⟩
  · obtain ⟨hcore, -⟩ := updateUnits_error _ he
    exact ⟨hcore, ioUpdate_eq_error hs he⟩
  · obtain ⟨t, ht, hmem, hin, hlog⟩ := updateUnits_extend (m := 0) (n := 21) hs rfl (by omega) le_rfl
      fun v _ hv => hno v (by omega)
    exact ⟨t, ht, State.wordAt_congr hmem, hin, hlog⟩
  · intro u hu harmed hc hfirst
    have hbefore := updateUnits_of_not_crosses (pc0 := pc0) (n := u) hs (by omega) hfirst
    rw [State.lowerTimers_succ_of_ne s harmed]
    refine ⟨fun h he => ?_, fun s₁ hok hlater => ?_⟩
    · exact (updateUnits_eq_error hs le_rfl).2 ⟨u, _, by omega, hbefore, harmed, hc, he⟩
    · have hturn : updateUnits pc0 c armed (List.range (u + 1)) s = .ok s₁ :=
        (updateUnits_succ_eq_ok hs (by omega)).2
          ⟨_, hbefore, fun heq => absurd heq harmed, fun _ hnot => absurd hc hnot, fun _ _ => hok⟩
      obtain ⟨t, ht, hmem, hin, hlog⟩ := updateUnits_extend (n := 21) hs hturn (by omega) le_rfl
        fun v hv hlt => hlater v (by omega) (by omega)
      exact ⟨t, ht, State.wordAt_congr hmem, hin, hlog⟩

end Sys2Proof.Machine
end

section
/-! PROOF. The invariant (10_state.md R32, R33, R35, R41): each phase of a step keeps it. Between phases EXECUTE and CHECK
an index register may be too large, so the phases keep `InvBody`, the invariant without its bound on I1..I6. -/

namespace Sys2Proof.Machine

variable {s t u h : State}

/-! ### The device records -/

/-- The device table's part of the invariant. -/
def State.DevsOk (s : State) : Prop := s.devs.length = numDevices ∧ ∀ u, u < numDevices → (s.dev u).Ok u

/-- A record stays legal when its timer falls, whatever its field and its error become. -/
theorem DevRec.Ok.of_timer_le {k : Nat} {d d' : DevRec} (hd : d.Ok k) (haddr : d'.addr = d.addr) (hop : d'.op = d.op)
    (htotal : d'.total = d.total) (htimer : d'.timer ≤ d.timer) : d'.Ok k := by
  obtain ⟨htimer_le, htotal_pos, haddr_lower, haddr_upper, hlegal⟩ := hd
  refine ⟨by omega, by omega, by omega, by omega, fun hne => ?_⟩
  rw [hop]
  exact hlegal (by omega)

theorem DevRec.ok_armed {k : Nat} {op : IoOp} {ma : Word} (hma : ma.mag ≤ 8190)
    (hop : (unitKind k).allows op = true) (f : Byte) (e : Option String) :
    DevRec.Ok k { addr := ma.val, field := f, op := op, total := devTime k, timer := devTime k, lastError := e } := by
  have habs := ma.natAbs_val
  exact ⟨le_rfl, Nat.le_add_left 1 _, show -8190 ≤ ma.val by omega, show ma.val ≤ 8190 by omega, fun _ => hop⟩

/-- Replacing one record by a legal one. -/
theorem State.DevsOk.set {k : Nat} {d : DevRec} (hs : s.DevsOk) (hd : d.Ok k) (ht : t.devs = s.devs.set k d) :
    t.DevsOk := by
  obtain ⟨hlen, hok⟩ := hs
  refine ⟨by rw [ht, List.length_set, hlen], fun v hv => ?_⟩
  rw [State.dev_congr (s := s.setDev k d) ht]
  by_cases hvk : v = k
  · subst hvk
    rwa [State.setDev_dev_self s d (by omega)]
  · rw [State.setDev_dev_of_ne s d hvk]
    exact hok v hv

theorem State.DevsOk.congr (hs : s.DevsOk) (ht : t.devs = s.devs) : t.DevsOk :=
  ⟨ht ▸ hs.1, fun v hv => by rw [State.dev_congr ht]; exact hs.2 v hv⟩

/-- The timer update lowers timers and writes an error text, and so keeps the records legal. -/
theorem State.DevsOk.ioUpdate_ok {pc0 : Int} {c : Nat} {armed : Option Nat} (hs : s.DevsOk)
    (ht : ioUpdate pc0 c armed s = .ok t) : t.DevsOk := by
  obtain ⟨hlen, hok⟩ := hs
  obtain ⟨hlen', hdev, -⟩ := updateUnits_range_dev hlen le_rfl ht
  refine ⟨hlen', fun v hv => ?_⟩
  rw [hdev v hv]
  split
  · exact hok v hv
  · exact (hok v hv).of_timer_le rfl rfl rfl (Nat.sub_le _ _)

theorem State.DevsOk.ioUpdate_error {pc0 : Int} {c : Nat} {armed : Option Nat} (hs : s.DevsOk)
    (he : ioUpdate pc0 c armed s = .error h) : h.DevsOk := by
  obtain ⟨hlen, hok⟩ := hs
  obtain ⟨-, -, hlen', -⟩ := updateUnits_error _ he
  obtain ⟨k, text, -, -, -, -, hself, hbelow, habove⟩ := ioUpdate_eq_error hlen he
  refine ⟨hlen'.trans hlen, fun v hv => ?_⟩
  rcases Nat.lt_trichotomy v k with hlt | rfl | hgt
  · rw [hbelow v hlt]
    split
    · exact hok v hv
    · exact (hok v hv).of_timer_le rfl rfl rfl (Nat.sub_le _ _)
  · rw [hself]
    exact (hok v hv).of_timer_le rfl rfl rfl (Nat.sub_le _ _)
  · rw [habove v hgt]
    exact hok v hv

/-! ### The invariant without the bound on the index registers -/

/-- The clauses of `State.Inv` that hold in the middle of a step too. -/
structure State.InvBody (s : State) : Prop where
  mem_wf : Memory.wf s.mem = true
  execCount_wf : Counters.wf s.execCount = true
  execTime_wf : Counters.wf s.execTime = true
  devs_ok : s.DevsOk
  j_plus : s.j.sign = .plus
  j_le : s.j.mag ≤ memWords
  pc_lower : -8190 ≤ s.pc
  pc_upper : s.pc ≤ 8190

theorem State.inv_iff : s.Inv ↔ s.InvBody ∧ (s.run = .running → s.indexBounded) :=
  ⟨fun ⟨h1, h2, h3, h4, h5, h6, h7, h8, h9, h10⟩ => ⟨⟨h1, h2, h3, ⟨h4, h5⟩, h6, h7, h8, h9⟩, h10⟩,
   fun ⟨⟨h1, h2, h3, ⟨h4, h5⟩, h6, h7, h8, h9⟩, h10⟩ => ⟨h1, h2, h3, h4, h5, h6, h7, h8, h9, h10⟩⟩

theorem State.Inv.body (hs : s.Inv) : s.InvBody := (State.inv_iff.1 hs).1

theorem State.InvBody.inv_of_halted {reason : HaltReason} {info : HaltInfo} (hs : s.InvBody)
    (hr : s.run = .halted reason info) : s.Inv :=
  State.inv_iff.2 ⟨hs, fun hrun => by rw [hr] at hrun; cases hrun⟩

theorem State.InvBody.setRun (hs : s.InvBody) (r : RunState) : (s.setRun r).InvBody := by
  obtain ⟨h1, h2, h3, h4, h5, h6, h7, h8⟩ := hs
  exact ⟨h1, h2, h3, h4.congr rfl, h5, h6, h7, h8⟩

theorem State.InvBody.setOvf (hs : s.InvBody) (b : Bool) : (s.setOvf b).InvBody := by
  obtain ⟨h1, h2, h3, h4, h5, h6, h7, h8⟩ := hs
  exact ⟨h1, h2, h3, h4.congr rfl, h5, h6, h7, h8⟩

theorem State.InvBody.setMem (hs : s.InvBody) {m : Memory} (hm : Memory.wf m = true) : (s.setMem m).InvBody := by
  obtain ⟨-, h2, h3, h4, h5, h6, h7, h8⟩ := hs
  exact ⟨hm, h2, h3, h4.congr rfl, h5, h6, h7, h8⟩

/-- The devices can change memory and their own table alone. -/
theorem State.InvBody.of_coreKept (hs : s.InvBody) (hcore : coreKept s t) (hmem : Memory.wf t.mem = true)
    (hdevs : t.DevsOk) : t.InvBody := by
  obtain ⟨-, h2, h3, -, h5, h6, h7, h8⟩ := hs
  have hj : t.j = s.j := coreKept_reg hcore .J
  obtain ⟨-, hpc, -, hcount, htime, -⟩ := hcore
  exact ⟨hmem, hcount ▸ h2, htime ▸ h3, hdevs, hj ▸ h5, hj ▸ h6, hpc ▸ h7, hpc ▸ h8⟩

/-! ### Phase EXECUTE -/

theorem HaltsAt.inv {n : Int} (hs : s.InvBody) (hh : HaltsAt s h n) : h.Inv := by
  obtain ⟨-, rfl⟩ := hh
  exact (hs.setRun _).inv_of_halted rfl

theorem State.InvBody.haltedFor_inv (hs : s.InvBody) (reason : HaltReason) : (s.haltedFor reason).Inv :=
  (hs.setRun _).inv_of_halted rfl

theorem ExecHalts.inv {c : Nat} (hs : s.InvBody) (hh : ExecHalts c s h) : h.Inv := by
  rcases hh with rfl | rfl | ⟨n, hat⟩ | ⟨-, mem, n, hwf, hat⟩ | ⟨-, rfl⟩ |
    ⟨-, -, k, text, hk, hcore, hwf, hrun, ⟨hself, hothers⟩, hlen⟩
  · exact hs.haltedFor_inv _
  · exact hs.haltedFor_inv _
  · exact hat.inv hs
  · exact hat.inv (hs.setMem (hwf hs.mem_wf))
  · exact (hs.setOvf true).haltedFor_inv _
  · obtain ⟨hcount, hok⟩ := hs.devs_ok
    refine (hs.of_coreKept hcore (hwf hs.mem_wf) ⟨hlen.trans hcount, fun v hv => ?_⟩).inv_of_halted hrun
    by_cases hvk : v = k
    · subst hvk
      obtain ⟨hdev, htimer⟩ := hself hcount
      rw [hdev]
      exact (hok v hv).of_timer_le rfl rfl rfl (show (h.dev v).timer ≤ (s.dev v).timer by omega)
    · rw [hothers v hvk]
      exact hok v hv

/-- An instruction leaves a table in which its unit, if it has one, is armed with an address in the range of M, or idle. -/
theorem ExecEnds.devsOk {c f : Nat} {m : Addr} (ht : ExecEnds c f m s t) (hs : s.DevsOk) (hb : s.indexBounded) :
    t.DevsOk := by
  rcases ht.devs with hsame | ⟨-, -, k, ma, g, op, hma, -, hop, -, hset⟩ | ⟨-, k, hk, hset⟩
  · exact hs.congr hsame
  · exact hs.set (DevRec.ok_armed (effAddr_mag_le hb hma) hop g _) hset
  · have hold : (s.dev k).Ok k := hs.2 k (Nat.lt_succ_of_le hk)
    have hidle : DevRec.Ok k { s.dev k with timer := 0 } := hold.of_timer_le rfl rfl rfl (Nat.zero_le _)
    exact hs.set hidle hset

/-- A fetched instruction has its pc in memory, so that the next address, which a jump puts into J, is at most 4000. -/
theorem ExecEnds.invBody {c f : Nat} {m : Addr} (ht : ExecEnds c f m s t) (hs : s.InvBody) (hb : s.indexBounded)
    (ha : addrOk s.pc = true) : t.InvBody := by
  rw [addrOk_iff] at ha
  have hj : t.j.sign = .plus ∧ t.j.mag ≤ memWords := by
    rcases ht.j with ⟨hj, -⟩ | hj
    · exact hj ▸ ⟨hs.j_plus, hs.j_le⟩
    · rw [hj, Word.mag_ofMag _ (show (s.pc + 1).toNat < magLimit by simp only [magLimit]; omega)]
      exact ⟨rfl, show (s.pc + 1).toNat ≤ 4000 by omega⟩
  have hpc : -8190 ≤ t.pc ∧ t.pc ≤ 8190 := by
    rcases ht.pc with hpc | ⟨ma, hma, hpc⟩
    · omega
    · have habs := ma.natAbs_val
      have hmag := effAddr_mag_le hb hma
      omega
  exact ⟨ht.mem_wf hs.mem_wf, ht.execCount ▸ hs.execCount_wf, ht.execTime ▸ hs.execTime_wf,
    ht.devsOk hs.devs_ok hb, hj.1, hj.2, hpc.1, hpc.2⟩

/-! ### The phases after EXECUTE -/

theorem State.InvBody.ioUpdate_ok {pc0 : Int} {c : Nat} {armed : Option Nat} (hs : s.InvBody)
    (ht : ioUpdate pc0 c armed s = .ok t) : t.InvBody := by
  obtain ⟨hcore, -, hwf, -⟩ := updateUnits_ok _ ht
  exact hs.of_coreKept hcore (hwf hs.mem_wf) (hs.devs_ok.ioUpdate_ok ht)

theorem State.InvBody.ioUpdate_error {pc0 : Int} {c : Nat} {armed : Option Nat} (hs : s.InvBody)
    (he : ioUpdate pc0 c armed s = .error h) : h.Inv := by
  obtain ⟨hcore, hwf, -, k, text, hrun⟩ := updateUnits_error _ he
  exact (hs.of_coreKept hcore (hwf hs.mem_wf) (hs.devs_ok.ioUpdate_error he)).inv_of_halted hrun

theorem State.InvBody.record {pc0 : Int} (hs : s.InvBody) (ha : addrOk pc0 = true) (c : Nat) :
    (record pc0 c s).InvBody := by
  obtain ⟨h1, h2, h3, h4, h5, h6, h7, h8⟩ := hs
  rw [addrOk_iff] at ha
  have hcell : pc0.toNat < memWords := show pc0.toNat < 4000 by omega
  exact ⟨h1, tableWf_write _ h2 (Nat.zero_le _) hcell, tableWf_write _ h3 (Nat.zero_le _) hcell, h4.congr rfl,
    h5, h6, h7, h8⟩

/-- Phase CHECK gives the bound on I1..I6 back, or halts. -/
theorem Finishes.inv {i : Instr} (hfin : Finishes s i t u) (ht : t.InvBody) (ha : addrOk s.pc = true) : u.Inv := by
  rcases hfin with herr | ⟨t₁, hio, hcheck⟩ | ⟨t₁, hio, hregs, rfl⟩
  · exact ht.ioUpdate_error herr
  · obtain ⟨_, _, _, -, -, -, rfl⟩ := checkRegs_eq_error hcheck
    exact ((ht.ioUpdate_ok hio).setRun _).inv_of_halted rfl
  · obtain ⟨ρ, hstop⟩ := stopPhase_eq_setRun s.pc i (record s.pc (cost s i) t₁)
    rw [hstop]
    refine State.inv_iff.2 ⟨((ht.ioUpdate_ok hio).record ha _).setRun ρ, fun _ r hr => ?_⟩
    have hkept : ((record s.pc (cost s i) t₁).setRun ρ).reg r = t₁.reg r :=
      (frame_of_record_setRun s.pc (cost s i) t₁ ρ).1 r List.not_mem_nil
    rw [hkept]
    exact hregs r (List.mem_append_left [Reg.J] hr : r ∈ indexRegs ++ [Reg.J])

/-- Settles O19: each end of a step that `step_cases` lists. -/
theorem everyStepKeepsInv : Obligations.EveryStepKeepsInv := by
  intro s t hs hstep
  have hbound : s.indexBounded := hs.index_bounded (running_of_step hstep)
  rcases step_cases hstep with hat | ⟨-, rfl, -⟩ | ⟨ha, i, -, ⟨hhalts, -⟩ | ⟨t', hends, -, hfin⟩⟩
  · exact hat.inv hs.body
  · exact hs.body.haltedFor_inv _
  · exact hhalts.inv hs.body
  · exact hfin.inv (hends.invBody hs.body hbound ha) ha

/-! ### The base case -/

theorem resetWith_dev (p : Params) {k : Nat} (hk : k < 21) : (State.resetWith p).dev k = DevRec.reset k := by
  simp [State.dev, State.resetWith, numDevices, hk]

/-- Settles O18: the tables are empty, every register is +0 and every device is idle. -/
theorem resetSatisfiesInv : Obligations.ResetSatisfiesInv := by
  have hreset (p : Params) : (State.resetWith p).Inv := by
    have hj : Word.plusZero.mag ≤ memWords := by decide
    have hlower : (-8190 : Int) ≤ 0 := by decide
    have hupper : (0 : Int) ≤ 8190 := by decide
    refine ⟨rfl, rfl, rfl, rfl, fun k hk => ?_, rfl, hj, hlower, hupper, fun _ r hr => ?_⟩
    · rw [resetWith_dev p hk]
      exact ⟨Nat.zero_le _, Nat.le_add_left 1 _, hlower, hupper, fun hne => absurd rfl hne⟩
    · cases r <;> exact (by decide : Word.plusZero.mag < idxLimit)
  exact ⟨hreset _, hreset⟩

end Sys2Proof.Machine
end

section
/-! PROOF. The halts of a step (60_exceptions.md R550, R552): for each reason, once, what the halting step leaves and
what its halt record holds. -/

namespace Sys2Proof.Machine

variable {s t u h : State} {reason : HaltReason} {info : HaltInfo}

/-! ### HLT -/

theorem eq_hlt_of_isHlt {i : Instr} (h : isHlt i = true) : ∃ m, i = .hlt m := by
  cases i <;> cases h
  exact ⟨_, rfl⟩

theorem exec_hlt_of_effAddr {m : Addr} {ma : Word} (hm : effAddr m s = .ok ma) : exec (.hlt m) s = .next s.seq :=
  congrArg outcome (haltInstr_ok hm)

/-- HLT either halts as it forms M or advances pc and does no more. -/
theorem exec_hlt {m : Addr} (hx : exec (.hlt m) s = .next t) (ht : t.run = .running) :
    t = s.seq := by
  cases hm : effAddr m s with
  | ok ma =>
    rw [exec_hlt_of_effAddr hm] at hx
    cases hx
    rfl
  | error h =>
    rw [exec_of_effAddr_eq_error (i := .hlt m) hm] at hx
    cases hx
    rw [effAddr_halts hm] at ht
    cases ht

/-- An instruction keeps the number of device records. -/
theorem ExecEnds.devs_length {c f : Nat} {m : Addr} (ht : ExecEnds c f m s t) : t.devs.length = s.devs.length := by
  rcases ht.devs with hset | ⟨-, -, k, ma, g, op, -, -, -, -, hset⟩ | ⟨-, k, -, hset⟩
  · rw [hset]
  · rw [hset, List.length_set]
  · rw [hset, List.length_set]

/-! ### The halts, by reason -/

/-- What a step from `s` that halts in `u` leaves, and the halt record it makes, by its reason. -/
inductive StepHalts (s u : State) : HaltReason → HaltInfo → Prop where
  | illegalAddress (mem : Memory) (n : Int) (hn : n < 0 ∨ 4000 ≤ n)
      (hmem : (s.wordAt s.pc.toNat).b5.toNat ≠ 7 → mem = s.mem)
      (hu : u = (s.setMem mem).setRun (.halted .illegalAddress { pc := s.pc, addr := some n })) :
      StepHalts s u .illegalAddress { pc := s.pc, addr := some n }
  | invalidFieldSpec (hu : u = s.haltedFor .invalidFieldSpec) : StepHalts s u .invalidFieldSpec { pc := s.pc }
  | invalidOpcodeOrVariant (hu : u = s.haltedFor .invalidOpcodeOrVariant) :
      StepHalts s u .invalidOpcodeOrVariant { pc := s.pc }
  | divisionFailure (hu : u = (s.setOvf true).haltedFor .divisionFailure) :
      StepHalts s u .divisionFailure { pc := s.pc }
  | deviceError (k : Nat) (text : String)
      (hdev : s.devs.length = 21 → k ≤ 20 ∧ (u.dev k).lastError = some text)
      (hcount : u.execCount = s.execCount) (htime : u.execTime = s.execTime) :
      StepHalts s u .deviceError { pc := s.pc, unit := some k, text := some text }
  | registerOverflow (pre post : List Reg) (r : Reg) (hsplit : checkedRegs = pre ++ r :: post)
      (hbig : idxLimit ≤ (u.reg r).mag) (hpre : ∀ q ∈ pre, (u.reg q).mag < idxLimit)
      (hcount : u.execCount = s.execCount) (htime : u.execTime = s.execTime) :
      StepHalts s u .registerOverflow { pc := s.pc, reg := some r }
  | halt (m : Addr) (hd : decode (s.wordAt s.pc.toNat) = .ok (.hlt m)) (hpc : u.pc = s.pc + 1) :
      StepHalts s u .halt { pc := s.pc }

theorem HaltsAt.stepHalts {n : Int} {mem : Memory} (hat : HaltsAt (s.setMem mem) u n)
    (hmem : (s.wordAt s.pc.toNat).b5.toNat ≠ 7 → mem = s.mem) (hu : u.run = .halted reason info) :
    StepHalts s u reason info := by
  obtain ⟨hn, rfl⟩ := hat
  cases hu
  exact .illegalAddress mem n hn hmem rfl

theorem ExecHalts.stepHalts {i : Instr} (hd : decode (s.wordAt s.pc.toNat) = .ok i)
    (hh : ExecHalts (opByte i) s u) (hu : u.run = .halted reason info) : StepHalts s u reason info := by
  rcases hh with rfl | rfl | ⟨n, hat⟩ | ⟨hc, mem, n, -, hat⟩ | ⟨-, rfl⟩ |
    ⟨-, -, k, text, hk, ⟨-, -, -, hcount, htime, -⟩, -, hrun, ⟨hself, -⟩, -⟩
  · cases hu
    exact .invalidFieldSpec rfl
  · cases hu
    exact .invalidOpcodeOrVariant rfl
  · exact HaltsAt.stepHalts (mem := s.mem) hat (fun _ => rfl) hu
  · exact hat.stepHalts (fun hne => absurd ((opByte_of_decode hd).symm.trans hc) hne) hu
  · cases hu
    exact .divisionFailure rfl
  · rw [hrun] at hu
    cases hu
    refine .deviceError k text (fun hlen => ⟨hk, ?_⟩) hcount htime
    obtain ⟨hdev, -⟩ := hself hlen
    rw [hdev]

theorem Finishes.stepHalts {i : Instr} (hd : decode (s.wordAt s.pc.toNat) = .ok i) (hr : s.run = .running)
    (hx : exec i s = .next t) (hends : ExecEnds (opByte i) (fByte i) i.addr s t) (hfin : Finishes s i t u)
    (hu : u.run = .halted reason info) : StepHalts s u reason info := by
  rcases hfin with herr | ⟨t₁, hio, hcheck⟩ | ⟨t₁, hio, -, rfl⟩
  · obtain ⟨⟨-, -, -, hcount, htime, -⟩, -, -, k, text, hrun⟩ := updateUnits_error _ herr
    rw [hrun] at hu
    cases hu
    refine .deviceError k text (fun hlen => ?_) (hcount.trans hends.execCount) (htime.trans hends.execTime)
    obtain ⟨k', text', hk, -, -, hrun', hdev, -⟩ := ioUpdate_eq_error (hends.devs_length.trans hlen) herr
    rw [hrun] at hrun'
    cases hrun'
    exact ⟨hk, by rw [hdev]⟩
  · obtain ⟨⟨-, -, -, hcount, htime, -⟩, -⟩ := updateUnits_ok _ hio
    obtain ⟨pre, r, post, hsplit, hbig, hpre, rfl⟩ := checkRegs_eq_error hcheck
    cases hu
    refine .registerOverflow pre post r hsplit ?_ (fun q hq => ?_) (hcount.trans hends.execCount)
      (htime.trans hends.execTime)
    · rwa [State.setRun_reg]
    · rw [State.setRun_reg]
      exact hpre q hq
  · obtain ⟨⟨-, hpc, -⟩, hrun, -⟩ := updateUnits_ok _ hio
    unfold stopPhase at hu ⊢
    by_cases hhlt : isHlt i = true
    · rw [if_pos hhlt] at hu ⊢
      cases hu
      obtain ⟨m, rfl⟩ := eq_hlt_of_isHlt hhlt
      have ht : t = s.seq := exec_hlt hx (hends.run.trans hr)
      exact .halt m hd (hpc.trans (ht ▸ State.seq_pc s))
    · rw [if_neg hhlt] at hu
      have hrunning : t₁.run = .running := (hrun.trans hends.run).trans hr
      exact absurd (hrunning.symm.trans hu) (by simp)

/-- Every halting step is one of these. -/
theorem step_halts (hstep : step s = .next u) (hu : u.run = .halted reason info) : StepHalts s u reason info := by
  have hr := running_of_step hstep
  rcases step_cases hstep with hat | ⟨-, rfl, -⟩ | ⟨-, i, hd, ⟨hhalts, -⟩ | ⟨t, hends, hx, hfin⟩⟩
  · exact HaltsAt.stepHalts (mem := s.mem) hat (fun _ => rfl) hu
  · cases hu
    exact .invalidOpcodeOrVariant rfl
  · exact hhalts.stepHalts hd hu
  · exact hfin.stepHalts hd hr hx hends hu

/-! ### The halt record -/

theorem HaltInfo.shown_eq (info : HaltInfo) :
    info.shown = (match info.addr with
      | some n => n
      | none => info.pc) := by
  unfold HaltInfo.shown
  cases info.addr <;> rfl

/-- Settles O13: the record of each reason, as `StepHalts` lists them. -/
theorem haltRecordIsExact : Obligations.HaltRecordIsExact := by
  intro s u reason info hs hstep hu
  have hshown := info.shown_eq
  cases step_halts hstep hu with
  | illegalAddress mem n hn => exact ⟨rfl, ⟨n, rfl, hn⟩, rfl, ⟨rfl, rfl⟩, hshown⟩
  | invalidFieldSpec => exact ⟨rfl, rfl, rfl, ⟨rfl, rfl⟩, hshown⟩
  | invalidOpcodeOrVariant => exact ⟨rfl, rfl, rfl, ⟨rfl, rfl⟩, hshown⟩
  | divisionFailure => exact ⟨rfl, rfl, rfl, ⟨rfl, rfl⟩, hshown⟩
  | deviceError k text hdev =>
    obtain ⟨hk, herror⟩ := hdev hs.dev_count
    exact ⟨rfl, rfl, rfl, ⟨k, text, hk, rfl, rfl, herror⟩, hshown⟩
  | registerOverflow pre post r hsplit hbig hpre =>
    exact ⟨rfl, rfl, ⟨pre, r, post, hsplit, rfl, hbig, hpre⟩, ⟨rfl, rfl⟩, hshown⟩
  | halt => exact ⟨rfl, rfl, rfl, ⟨rfl, rfl⟩, hshown⟩

/-! ### What a halt keeps -/

theorem regsKept_setMem_setRun (s : State) (mem : Memory) (r : RunState) :
    regsKept [] s ((s.setMem mem).setRun r) := fun q _ => by rw [State.setRun_reg, State.setMem_reg]

/-- Settles O14: the halting step of each reason, as `StepHalts` lists them. -/
theorem haltsKeepWhatTheTableSays : Obligations.HaltsKeepWhatTheTableSays := by
  intro s u reason info _ hstep hu
  cases step_halts hstep hu with
  | illegalAddress mem n hn hmem heq =>
    subst heq
    refine ⟨by simp, fun _ => ⟨rfl, regsKept_setMem_setRun s mem _, ⟨rfl, rfl⟩, ⟨rfl, rfl, rfl⟩, fun hc n => ?_⟩,
      by simp, by simp, fun _ => ⟨rfl, rfl⟩⟩
    rw [hmem hc]
    rfl
  | invalidFieldSpec heq => exact ⟨fun _ => heq, by simp, by simp, by simp, fun _ => heq ▸ ⟨rfl, rfl⟩⟩
  | invalidOpcodeOrVariant heq => exact ⟨fun _ => heq, by simp, by simp, by simp, fun _ => heq ▸ ⟨rfl, rfl⟩⟩
  | divisionFailure heq => exact ⟨by simp, by simp, fun _ => heq, by simp, fun _ => heq ▸ ⟨rfl, rfl⟩⟩
  | deviceError k text hdev hcount htime => exact ⟨by simp, by simp, by simp, by simp, fun _ => ⟨hcount, htime⟩⟩
  | registerOverflow pre post r hsplit hbig hpre hcount htime =>
    exact ⟨by simp, by simp, by simp, by simp, fun _ => ⟨hcount, htime⟩⟩
  | halt m hd hpc => exact ⟨by simp, by simp, by simp, fun _ => ⟨hpc, m, hd⟩, by simp⟩

end Sys2Proof.Machine
end

section
/-! PROOF. Who may write what (10_state.md R34, R36, R37, 20_memory.md R74): the three ways in which a step can leave the
registers and the flags, and from them the tables of writers. -/

namespace Sys2Proof.Machine

variable {s t u h : State}

/-! ### What the other phases keep -/

/-- The registers, the flags and pc are as before. -/
def frameKept (s t : State) : Prop := regsKept [] s t ∧ flagsKept s t ∧ t.pc = s.pc

theorem coreKept.frameKept (h : coreKept s t) : frameKept s t :=
  ⟨h.1, h.2.2.1, h.2.1⟩

theorem frameKept.reg (h : frameKept s t) (r : Reg) : t.reg r = s.reg r := h.1 r List.not_mem_nil

theorem frameKept.trans (h : frameKept s t) (h' : frameKept t u) : frameKept s u := by
  obtain ⟨hregs, ⟨hovf, hci⟩, hpc⟩ := h
  obtain ⟨hregs', ⟨hovf', hci'⟩, hpc'⟩ := h'
  exact ⟨fun r hr => (hregs' r hr).trans (hregs r hr), ⟨hovf'.trans hovf, hci'.trans hci⟩, hpc'.trans hpc⟩

theorem Finishes.frameKept {i : Instr} (hfin : Finishes s i t u) : frameKept t u := by
  rcases hfin with herr | ⟨t₁, hio, hcheck⟩ | ⟨t₁, hio, -, rfl⟩
  · obtain ⟨hcore, -⟩ := updateUnits_error _ herr
    exact hcore.frameKept
  · obtain ⟨hcore, -⟩ := updateUnits_ok _ hio
    obtain ⟨_, _, _, -, -, -, rfl⟩ := checkRegs_eq_error hcheck
    exact hcore.frameKept.trans (coreKept_setRun _ _).frameKept
  · obtain ⟨hcore, -⟩ := updateUnits_ok _ hio
    obtain ⟨ρ, hstop⟩ := stopPhase_eq_setRun s.pc i (record s.pc (cost s i) t₁)
    obtain ⟨hregs, -, hflags, -, hpc⟩ := frame_of_record_setRun s.pc (cost s i) t₁ ρ
    rw [hstop]
    exact hcore.frameKept.trans ⟨hregs, hflags, hpc⟩

/-- What an instruction that halts leaves of the registers and the flags: all but the overflow flag, which DIV sets. -/
theorem ExecHalts.kept {c : Nat} (hh : ExecHalts c s h) :
    regsKept [] s h ∧ h.ci = s.ci ∧ (h.ovf = s.ovf ∨ c = 4 ∧ h.ovf = true) := by
  rcases hh with rfl | rfl | ⟨n, -, rfl⟩ | ⟨-, mem, n, -, -, rfl⟩ | ⟨hc, rfl⟩ | ⟨-, -, k, text, -, hcore, -⟩
  · exact ⟨fun r _ => State.setRun_reg _ _ r, rfl, .inl rfl⟩
  · exact ⟨fun r _ => State.setRun_reg _ _ r, rfl, .inl rfl⟩
  · exact ⟨fun r _ => State.setRun_reg _ _ r, rfl, .inl rfl⟩
  · exact ⟨regsKept_setMem_setRun s mem _, rfl, .inl rfl⟩
  · exact ⟨fun r _ => (State.setRun_reg _ _ r).trans (State.setOvf_reg s true r), rfl, .inr ⟨hc, rfl⟩⟩
  · obtain ⟨hregs, -, ⟨hovf, hci⟩, -⟩ := hcore
    exact ⟨hregs, hci, .inl hovf⟩

/-- A step leaves the registers and the flags as a halt does, or as its instruction does. -/
theorem step_regs_flags (hstep : step s = .next u) :
    (regsKept [] s u ∧ u.ci = s.ci ∧ (u.ovf = s.ovf ∨ (s.wordAt s.pc.toNat).b5.toNat = 4 ∧ u.ovf = true) ∧
      u.run ≠ .running) ∨
    ∃ m t, ExecEnds (s.wordAt s.pc.toNat).b5.toNat (s.wordAt s.pc.toNat).b4.toNat m s t ∧ frameKept t u := by
  rcases step_cases hstep with ⟨-, rfl⟩ | ⟨-, rfl, -⟩ | ⟨-, i, hd, ⟨hhalts, -⟩ | ⟨t, hends, -, hfin⟩⟩
  · exact .inl ⟨fun r _ => State.setRun_reg _ _ r, rfl, .inl rfl, nofun⟩
  · exact .inl ⟨fun r _ => State.setRun_reg _ _ r, rfl, .inl rfl, nofun⟩
  · obtain ⟨hregs, hci, hovf⟩ := hhalts.kept
    obtain ⟨reason, info, hrun⟩ := execHalts_halted hhalts
    rw [opByte_of_decode hd] at hovf
    exact .inl ⟨hregs, hci, hovf, by simp [hrun]⟩
  · rw [opByte_of_decode hd, fByte_of_decode hd] at hends
    exact .inr ⟨_, t, hends, hfin.frameKept⟩

/-! ### The tables of writers -/

/-- Settles O23: a register that a step changes is one its instruction changes. -/
theorem registerWriters : Obligations.RegisterWriters := by
  intro s u r hstep hne
  rcases step_regs_flags hstep with ⟨hregs, -⟩ | ⟨m, t, hends, hkept⟩
  · exact absurd (hregs r List.not_mem_nil) hne
  · rw [hkept.reg r] at hne
    exact (hends.regs r).resolve_left hne

/-- Settles O22: a jump that is taken writes J, and one that is not goes to the next address. -/
theorem jumpRegisterWriters : Obligations.JumpRegisterWriters := by
  intro s u hstep
  rcases step_regs_flags hstep with ⟨hregs, -, -, hrun⟩ | ⟨m, t, hends, hkept⟩
  · exact ⟨fun hne => absurd (hregs .J List.not_mem_nil) hne, fun _ hrunning => absurd hrunning hrun⟩
  · have hj : u.j = t.j := hkept.reg .J
    obtain ⟨-, -, hpc⟩ := hkept
    rw [hj, hpc]
    refine ⟨fun hne => ⟨(hends.regs .J).resolve_left hne, hends.j.resolve_left fun h => hne h.1⟩, fun hw _ hne => ?_⟩
    exact hends.j.resolve_left fun h => hne (h.2 hw)

/-- Settles O21: a flag that a step changes is changed by its instruction, or is the overflow flag that DIV sets. -/
theorem flagWriters : Obligations.FlagWriters := by
  intro s u hs hstep
  have hbound : s.indexBounded := hs.index_bounded (running_of_step hstep)
  rcases step_regs_flags hstep with ⟨-, hci, hovf, -⟩ | ⟨m, t, hends, -, ⟨hovf, hci⟩, -⟩
  · refine ⟨fun hne => absurd hci hne, fun htrue hfalse => ?_, fun hfalse htrue => ?_⟩
    · rcases hovf with heq | ⟨-, heq⟩ <;> simp [heq, htrue] at hfalse
    · rcases hovf with heq | ⟨hc, -⟩
      · simp [heq, hfalse] at htrue
      · simp [hc]
  · rw [hovf, hci]
    refine ⟨hends.ci.resolve_left, fun htrue hfalse => ?_, fun hfalse htrue => ?_⟩
    · rcases hends.ovf with heq | ⟨-, hc⟩ | ⟨heq, -⟩
      · simp [heq, htrue] at hfalse
      · exact hc
      · simp [heq] at hfalse
    · rcases hends.ovf with heq | ⟨heq, -⟩ | ⟨-, hc | hc | ⟨-, -, hf, hc⟩⟩
      · simp [heq, hfalse] at htrue
      · simp [heq] at htrue
      · simp only [List.mem_cons, List.not_mem_nil, or_false] at hc ⊢
        omega
      · exact .inr (.inl hc)
      · exact .inr (.inr ⟨hc hbound, hf⟩)

/-- Settles O24: the writers that `ExecEnds` and `ExecHalts` name. -/
theorem memoryAndDeviceWriters : Obligations.MemoryAndDeviceWriters := by
  intro i s t hx
  have changed {p : Prop} (hmem : ¬ p → t.mem = s.mem) (h : ∃ n, t.wordAt n ≠ s.wordAt n) : p := by
    obtain ⟨n, hn⟩ := h
    exact by_contra fun hp => hn (State.wordAt_congr (hmem hp) n)
  have touched {p : Prop} (hdev : ¬ p → t.devs = s.devs ∧ t.hostIn = s.hostIn ∧ t.hostLog = s.hostLog)
      (h : t.devs ≠ s.devs ∨ t.hostIn ≠ s.hostIn ∨ t.hostLog ≠ s.hostLog) : p := by
    by_contra hp
    obtain ⟨h1, h2, h3⟩ := hdev hp
    simp [h1, h2, h3] at h
  rcases exec_ends_or_halts hx with hends | hhalts
  · refine ⟨changed hends.mem, touched fun hc => ⟨?_, hends.host hc⟩⟩
    rcases hends.devs with heq | ⟨h36, h37, -⟩ | ⟨h35, -⟩
    · exact heq
    · exact absurd ⟨by omega, by omega⟩ hc
    · exact absurd ⟨by omega, by omega⟩ hc
  · rcases hhalts with rfl | rfl | ⟨n, -, rfl⟩ | ⟨hc, mem, n, -, -, rfl⟩ | ⟨-, rfl⟩ | ⟨h35, h37, -⟩
    · exact ⟨changed fun _ => rfl, touched fun _ => ⟨rfl, rfl, rfl⟩⟩
    · exact ⟨changed fun _ => rfl, touched fun _ => ⟨rfl, rfl, rfl⟩⟩
    · exact ⟨changed fun _ => rfl, touched fun _ => ⟨rfl, rfl, rfl⟩⟩
    · exact ⟨fun _ => .inl hc, touched fun _ => ⟨rfl, rfl, rfl⟩⟩
    · exact ⟨changed fun _ => rfl, touched fun _ => ⟨rfl, rfl, rfl⟩⟩
    · exact ⟨fun _ => .inr (.inr ⟨h35, h37⟩), fun _ => ⟨h35, h37⟩⟩

/-! ### HLT -/

/-- Settles O16: HLT advances pc, and the phases after it change counters and the run state alone. -/
theorem hltHalts : Obligations.HltHalts := by
  intro s m hm
  obtain ⟨ma, hma⟩ := effAddr_of_indexOk hm s
  have hx : exec (.hlt m) s = .next s.seq := exec_hlt_of_effAddr hma
  refine ⟨_, hx, rfl, fun r _ => State.seq_reg s r, fun _ => rfl, ⟨rfl, rfl⟩, ⟨⟨rfl, rfl, rfl⟩, rfl, rfl, rfl, rfl⟩,
    fun t₁ hr ha hd hio hregs => ?_⟩
  have hrun : s.seq.run = .running := hr
  have hstep : step s = .next ((record s.pc (cost s (.hlt m)) t₁).setRun (.halted .halt { pc := s.pc })) := by
    have hcheck : checkRegs s.pc t₁ = .ok t₁ := checkRegs_eq_ok.2 ⟨hregs, rfl⟩
    rw [step_of_ioUpdate hr ha hd hx hrun hio, hcheck]
    rfl
  obtain ⟨hcore, -⟩ := updateUnits_ok _ hio
  obtain ⟨hregs', hmem, hflags, hdevs, hpc⟩ :=
    frame_of_record_setRun s.pc (cost s (.hlt m)) t₁ (.halted .halt { pc := s.pc })
  have hkept : frameKept s.seq ((record s.pc (cost s (.hlt m)) t₁).setRun (.halted .halt { pc := s.pc })) :=
    hcore.frameKept.trans ⟨hregs', hflags, hpc⟩
  obtain ⟨hcount, htime⟩ := counters_of_ioUpdate hx hrun hio
  rw [← hcount, ← htime]
  exact ⟨_, hstep, rfl, hkept.2.2, fun r _ => (hkept.reg r).trans (State.seq_reg s r), hmem, hkept.2.1, hdevs,
    record_counters_self s.pc (cost_pos s _) t₁⟩

end Sys2Proof.Machine
end

section
/-! PROOF. The profiling counters are invisible to phase EXECUTE (10_state.md R43): every operation answers the same from a
state with other counters, but for those counters in the state it answers. -/

namespace Sys2Proof.Machine

variable {α β : Type} {ec et : Counters}

/-! ### Phases and counters -/

/-- The answer of a phase with other counters in its halted state, and its value changed by `g`. -/
def Phase.recount (ec et : Counters) (g : α → α) : Phase α → Phase α
  | .ok a => .ok (g a)
  | .error h => .error (h.withCounters ec et)

theorem recount_bind {p p' : Phase α} {k k' : α → Phase β} {g : α → α} {g' : β → β}
    (hp : p' = p.recount ec et g) (hk : ∀ a, k' (g a) = (k a).recount ec et g') :
    (p' >>= k') = (p >>= k).recount ec et g' := by
  subst hp
  cases p with
  | error h => rfl
  | ok a => exact hk a

/-- A phase that answers a state, with other counters in it. -/
abbrev Phase.recountState (ec et : Counters) (p : Phase State) : Phase State :=
  p.recount ec et (fun t => t.withCounters ec et)

theorem settle_recount (p : Phase State) : settle (p.recountState ec et) = (settle p).withCounters ec et := by
  cases p <;> rfl

/-! ### The state -/

variable (s : State)

@[simp] theorem withCounters_reg (r : Reg) : (s.withCounters ec et).reg r = s.reg r := by cases r <;> rfl

@[simp] theorem withCounters_setReg (r : Reg) (w : Word) :
    (s.withCounters ec et).setReg r w = (s.setReg r w).withCounters ec et := by cases r <;> rfl

theorem recount_ite {b b' : Bool} {s s' t t' : State} (hb : b' = b) (hs : s' = s.withCounters ec et)
    (ht : t' = t.withCounters ec et) :
    (pure (if b' then s' else t') : Phase State) = Phase.recountState ec et (pure (if b then s else t)) := by
  subst hb hs ht
  cases b' <;> rfl

theorem writeBlock_withCounters (ws : List Word) (a : Nat) :
    writeBlock (s.withCounters ec et) a ws = (writeBlock s a ws).withCounters ec et := by
  induction ws generalizing s a with
  | nil => rfl
  | cons w ws ih => exact ih (s.putWord a w) (a + 1)

/-! ### Operands -/

variable (m : Addr) (f : Byte)

theorem effAddr_withCounters : effAddr m (s.withCounters ec et) = (effAddr m s).recount ec et id := by
  unfold effAddr
  split
  · rfl
  · rfl
  · rw [withCounters_reg]
    rfl

theorem fieldOf_withCounters : fieldOf f (s.withCounters ec et) = (fieldOf f s).recount ec et id := by
  unfold fieldOf
  split <;> rfl

theorem memRead_withCounters (n : Int) : memRead n (s.withCounters ec et) = (memRead n s).recount ec et id := by
  unfold memRead
  split <;> rfl

theorem memWrite_withCounters (n : Int) (w : Word) :
    memWrite n w (s.withCounters ec et) = (memWrite n w s).recountState ec et := by
  unfold memWrite
  split <;> rfl

theorem fieldOperand_withCounters :
    fieldOperand m f (s.withCounters ec et) = (fieldOperand m f s).recount ec et id :=
  recount_bind (effAddr_withCounters s m) fun ma => recount_bind (fieldOf_withCounters s f) fun _ =>
    recount_bind (memRead_withCounters s ma.val) fun _ => rfl

theorem shiftCount_withCounters (ma : Word) :
    shiftCount ma (s.withCounters ec et) = (shiftCount ma s).recount ec et id := by
  unfold shiftCount
  split
  · rfl
  · split <;> rfl

theorem shiftBits_withCounters : shiftBits m (s.withCounters ec et) = (shiftBits m s).recount ec et id :=
  recount_bind (effAddr_withCounters s m) fun ma => recount_bind (shiftCount_withCounters s ma) fun _ => rfl

theorem unitOf_withCounters (ok : Bool) : unitOf ok f (s.withCounters ec et) = (unitOf ok f s).recount ec et id := by
  unfold unitOf
  split <;> rfl

theorem copyWords_withCounters (src dst : Int) (n : Nat) :
    copyWords src dst n (s.withCounters ec et) = (copyWords src dst n s).recountState ec et := by
  induction n generalizing src dst s with
  | zero => rfl
  | succ n ih =>
    exact recount_bind (memRead_withCounters s src) fun w =>
      recount_bind (memWrite_withCounters s dst w) fun t => ih t (src + 1) (dst + 1)

/-! ### Devices -/

theorem askHost_withCounters (pc0 : Int) (u : Nat) (q : HostRequest) :
    askHost pc0 u q (s.withCounters ec et) = (askHost pc0 u q s).recountState ec et := by
  have hanswer : hostErr (s.withCounters ec et) q = hostErr s q := rfl
  unfold askHost
  rw [hanswer]
  split <;> rfl

theorem transfer_withCounters (pc0 : Int) (u : Nat) :
    transfer pc0 u (s.withCounters ec et) = (transfer pc0 u s).recountState ec et := by
  have hdev : (s.withCounters ec et).dev u = s.dev u := rfl
  have hparams : (s.withCounters ec et).params = s.params := rfl
  unfold transfer
  simp only [hdev, hparams]
  split
  · split
    · exact recount_bind (askHost_withCounters s _ _ _) fun t => congrArg Except.ok (writeBlock_withCounters t _ _)
    · exact askHost_withCounters s _ _ _
    · exact recount_bind (askHost_withCounters s _ _ _) fun t => congrArg Except.ok (writeBlock_withCounters t _ _)
    · exact askHost_withCounters s _ _ _
    all_goals rfl
  · rfl

theorem forceWaiting_withCounters (pc0 : Int) (u : Nat) :
    forceWaiting pc0 u (s.withCounters ec et) = (forceWaiting pc0 u s).recountState ec et := by
  have hdev : (s.withCounters ec et).dev u = s.dev u := rfl
  unfold forceWaiting
  rw [hdev]
  split
  · exact transfer_withCounters s pc0 u
  · rfl

theorem armUnit_withCounters (pc0 : Int) (u : Nat) (op : IoOp) (ma : Word) :
    arm pc0 u op ma f (s.withCounters ec et) = (arm pc0 u op ma f s).recountState ec et :=
  recount_bind (forceWaiting_withCounters s pc0 u) fun _ => rfl

/-! ### Every instruction -/

theorem endDivision_withCounters (d : Option (Word × Word)) :
    endDivision (s.withCounters ec et) d = (endDivision s d).recountState ec et := by
  cases d <;> rfl

/-- The word that a store takes is a register's or +0. -/
theorem store_word_withCounters {i : Instr} {v : State → Word} {g : Byte} (h : Instr.shape i = .store v g) :
    v (s.withCounters ec et) = v s := by
  cases i <;> cases h <;> rfl

theorem shape_run_withCounters (sh : Shape)
    (hstore : ∀ v g, sh = .store v g → v (s.withCounters ec et) = v s) :
    sh.run m (s.withCounters ec et) = (sh.run m s).recountState ec et := by
  have hm := effAddr_withCounters (ec := ec) (et := et) s m
  have hv (f : Byte) := fieldOperand_withCounters (ec := ec) (et := et) s m f
  have hn := shiftBits_withCounters (ec := ec) (et := et) s m
  cases sh with
  | load r f => exact recount_bind (hv f) fun o => by cases r <;> rfl
  | loadNeg r f => exact recount_bind (hv f) fun o => by cases r <;> rfl
  | store v f =>
    have hv : v (s.withCounters ec et) = v s := hstore v f rfl
    simp only [Shape.run, hv]
    exact recount_bind hm fun ma => recount_bind (fieldOf_withCounters s f) fun p =>
      recount_bind (memRead_withCounters s _) fun w => recount_bind (memWrite_withCounters s _ _) fun t => rfl
  | add f => exact recount_bind (hv f) fun o => rfl
  | sub f => exact recount_bind (hv f) fun o => rfl
  | mul f => exact recount_bind (hv f) fun o => rfl
  | div f => exact recount_bind (hv f) fun o => endDivision_withCounters s _
  | num => exact recount_bind hm fun ma => rfl
  | char => exact recount_bind hm fun ma => rfl
  | hlt => exact recount_bind hm fun ma => rfl
  | nop => exact recount_bind hm fun ma => rfl
  | shiftA sh => exact recount_bind hn fun n => rfl
  | shiftAX sh => exact recount_bind hn fun n => rfl
  | move f => exact recount_bind hm fun ma => recount_bind (copyWords_withCounters s _ _ _) fun t => rfl
  | compare r f => exact recount_bind (hv f) fun o => by cases r <;> rfl
  | jump => exact recount_bind hm fun ma => rfl
  | jumpSave => exact recount_bind hm fun ma => rfl
  | jumpOv => exact recount_bind hm fun ma => recount_ite rfl rfl rfl
  | jumpNov => exact recount_bind hm fun ma => recount_ite rfl rfl rfl
  | jumpCi t => exact recount_bind hm fun ma => recount_ite rfl rfl rfl
  | jumpReg r t =>
    exact recount_bind hm fun ma => recount_ite (congrArg t.holds (withCounters_reg s r)) rfl rfl
  | inc r => exact recount_bind hm fun ma => by cases r <;> rfl
  | dec r => exact recount_bind hm fun ma => by cases r <;> rfl
  | ent r => exact recount_bind hm fun ma => by cases r <;> rfl
  | enn r => exact recount_bind hm fun ma => by cases r <;> rfl
  | jumpBusy f =>
    exact recount_bind hm fun ma => recount_bind (unitOf_withCounters s f _) fun u =>
      recount_ite rfl rfl rfl
  | jumpReady f =>
    exact recount_bind hm fun ma => recount_bind (unitOf_withCounters s f _) fun u =>
      recount_ite rfl rfl rfl
  | startIo op f =>
    exact recount_bind hm fun ma => recount_bind (unitOf_withCounters s f _) fun u =>
      recount_bind (armUnit_withCounters s _ _ _ _ _) fun t => rfl
  | control f =>
    exact recount_bind hm fun ma => recount_bind (unitOf_withCounters s f _) fun u =>
      recount_bind (forceWaiting_withCounters s _ _) fun t =>
        recount_bind (askHost_withCounters (t.setDev u { t.dev u with timer := 0 }) _ _ _) fun t' => rfl

/-- Settles O25: operation by operation. -/
theorem countersAreInvisible : Obligations.CountersAreInvisible := by
  intro i s t ec et hx
  rw [exec_eq_shape, outcome_eq_next] at hx
  rw [exec_eq_shape, shape_run_withCounters s i.addr _ fun v g h => store_word_withCounters s h,
    outcome_eq_next, settle_recount, hx]

end Sys2Proof.Machine
end

section
/-! PROOF. Sign-magnitude addition and the field library (40_alu.md R151 to R155), and the effective address, which is
formed with them (30_encoding.md R104). -/

namespace Sys2Proof.Machine

variable {d q w : Word}

/-! ### The laws of addition -/

theorem smAdd_val (h : (smAdd d q).2 = false) : (smAdd d q).1.val = d.val + q.val := by
  rcases smAdd_cases d q with ⟨hs, hsign, hmag⟩ | ⟨hs, -, hcases⟩
  · obtain ⟨-, hmag, -⟩ := hmag.resolve_right fun ⟨_, _, ho⟩ => Bool.false_ne_true (h.symm.trans ho)
    cases hd : d.sign <;> simp only [Word.val, hsign, ← hs, hd, hmag] <;> omega
  · rcases hcases with ⟨-, hsign, hmag⟩ | ⟨-, hsign, hmag⟩ | ⟨heq, hsign, hmag⟩
    all_goals
      cases hd : d.sign <;> cases hq : q.sign <;>
        simp only [hd, hq, ne_eq, not_true_eq_false, reduceCtorEq, not_false_eq_true] at hs <;>
        simp only [Word.val, hsign, hd, hq] <;> omega

/-- The order matters only for two words of one magnitude and different signs. -/
theorem smAdd_comm (h : d.sign = q.sign ∨ d.mag ≠ q.mag) : smAdd d q = smAdd q d := by
  by_cases hs : d.sign = q.sign
  · rw [smAdd_of_same hs, smAdd_of_same hs.symm, hs, Nat.add_comm]
  · rcases Nat.lt_or_gt_of_ne (h.resolve_left hs) with hlt | hgt
    · rw [smAdd_of_lt hs hlt, smAdd_of_gt (Ne.symm hs) hlt]
    · rw [smAdd_of_gt hs hgt, smAdd_of_lt (Ne.symm hs) hgt]

theorem Word.val_ofMag_zero (s : Sign) : (Word.ofMag s 0).val = 0 := by cases s <;> rfl

theorem smAdd_sign_ne_iff (d q : Word) :
    (smAdd d q).1.sign ≠ (smAdd q d).1.sign ↔ (smAdd d q).1.mag = 0 ∧ d.sign ≠ q.sign := by
  by_cases hs : d.sign = q.sign
  · simp [smAdd_comm (.inl hs), hs]
  · by_cases hm : d.mag = q.mag
    · simp [smAdd_of_eq hs hm, smAdd_of_eq (Ne.symm hs) hm.symm, hs]
    · have hpos : (smAdd d q).1.mag ≠ 0 := by
        rcases smAdd_cases d q with ⟨heq, -⟩ | ⟨-, -, ⟨hlt, -, hmag⟩ | ⟨hlt, -, hmag⟩ | ⟨heq, -⟩⟩
        · exact absurd heq hs
        · omega
        · omega
        · exact absurd heq hm
      have hsame : (smAdd d q).1.sign = (smAdd q d).1.sign := by rw [smAdd_comm (.inr hm)]
      simp [hsame, hpos]

theorem sign_ne_flip (s : Sign) : s ≠ s.flip := by cases s <;> simp [Sign.flip]

theorem smAdd_zero (h : q.mag = 0) : smAdd d q = (d, false) := by
  have hd := d.mag_lt
  by_cases hs : d.sign = q.sign
  · rw [smAdd_of_same hs, h, Nat.add_zero, Nat.mod_eq_of_lt hd, Word.ofMag_mag, decide_eq_false (Nat.not_le.2 hd)]
  · rcases Nat.eq_zero_or_pos d.mag with hz | hpos
    · rw [smAdd_of_eq hs (hz.trans h.symm), ← hz, Word.ofMag_mag]
    · rw [smAdd_of_gt hs (h ▸ hpos), h, Nat.sub_zero, Word.ofMag_mag]

/-- Settles O53: the cases of `smAdd`, in the two orders. -/
theorem additionLaws : Obligations.AdditionLaws := by
  refine ⟨fun d q => smAdd_val, fun d q => ?_, smAdd_sign_ne_iff, fun w => ?_, fun d q => smAdd_zero⟩
  · by_cases h : d.sign = q.sign ∨ d.mag ≠ q.mag
    · rw [smAdd_comm h]
      exact ⟨rfl, rfl, rfl⟩
    · obtain ⟨hs, hm⟩ := not_or.1 h
      rw [smAdd_of_eq hs (not_not.1 hm), smAdd_of_eq (Ne.symm hs) (not_not.1 hm).symm]
      simp [Word.val_ofMag_zero]
  · exact smAdd_of_eq (sign_ne_flip w.sign) rfl

/-! ### The effective address -/

theorem addrWord_mag (m : Addr) : (addrWord m).mag = m.mag.toNat :=
  Word.mag_ofMag _ (Nat.lt_trans m.mag.isLt (by decide))

theorem addrWord_val (m : Addr) :
    (addrWord m).val = if m.sign = .plus then (m.mag.toNat : Int) else -m.mag.toNat := by
  have hsign : (addrWord m).sign = m.sign := rfl
  cases hs : m.sign <;> simp [Word.val, addrWord_mag, hsign, hs]

theorem indexReg_of_indexRegs {b : Byte} {k : Nat} {r : Reg} (hr : indexRegs[k]? = some r) (hb : b.toNat = k + 1) :
    indexReg b = some (some r) := by
  obtain ⟨hk, hget⟩ := List.getElem?_eq_some_iff.1 hr
  have hk6 : k < 6 := hk
  subst hget
  unfold indexReg
  interval_cases k <;> rw [hb] <;> rfl

/-- Settles O6: no sum of a 12-bit field and an index register overflows. -/
theorem effectiveAddress : Obligations.EffectiveAddress := by
  intro m s
  have hfield : (addrWord m).mag < 4096 := addrWord_mag m ▸ m.mag.isLt
  refine ⟨fun hidx => ?_, fun k r hr hidx hsmall => ?_⟩
  · have hnone : indexReg m.idx = some none := by unfold indexReg; rw [hidx]; rfl
    exact ⟨addrWord m, effAddr_eq_ok.2 (.inl ⟨hnone, rfl⟩), rfl, addrWord_mag m⟩
  · have hind : indexReg m.idx = some (some r) := indexReg_of_indexRegs hr hidx
    have hexact : (smAdd (addrWord m) (s.reg r)).2 = false :=
      smAdd_no_overflow hfield (by simp only [idxLimit] at hsmall; omega)
    have hma : effAddr m s = .ok (smAdd (addrWord m) (s.reg r)).1 := effAddr_eq_ok.2 (.inr ⟨r, hind, rfl⟩)
    refine ⟨_, hma, (smAdd_val hexact).trans (by rw [addrWord_val]), ?_, fun hzero => ?_⟩
    · have hcases := smAdd_cases (addrWord m) (s.reg r)
      simp only [idxLimit, magLimit] at *
      omega
    · rcases smAdd_cases (addrWord m) (s.reg r) with ⟨-, hsign, -⟩ |
        ⟨-, -, ⟨-, hsign, -⟩ | ⟨hlt, -, hmag⟩ | ⟨-, hsign, -⟩⟩
      · exact hsign
      · exact hsign
      · omega
      · exact hsign

/-! ### Field insertion -/

theorem storeField_eq_none {r : Word} {f : Byte} (h : ¬ (f.toNat / 8 ≤ f.toNat % 8 ∧ f.toNat % 8 ≤ 5)) :
    storeField d r f = none := by
  simp [storeField, fieldSpec, h]

theorem storeField_eq_some {r : Word} {f : Byte} (h : f.toNat / 8 ≤ f.toNat % 8) (h' : f.toNat % 8 ≤ 5) :
    storeField d r f = some (insertField d r ⟨f.toNat / 8, f.toNat % 8⟩) := by
  simp [storeField, fieldSpec, h, h']

theorem insertField_byte (d r : Word) (p : FieldSpec) {k : Nat} (h1 : 1 ≤ k) (h5 : k ≤ 5) :
    (insertField d r p).byte k = if p.first ≤ k ∧ k ≤ p.r then r.byte (5 - (p.r - k)) else d.byte k := by
  interval_cases k <;> rfl

/-- The low `n` bytes of a magnitude. -/
theorem Word.mag_mod_pow (w : Word) {n : Nat} (h : n ≤ 5) :
    w.mag % 64 ^ n = ∑ j ∈ Finset.range n, 64 ^ j * (w.byte (5 - j)).toNat := by
  have := w.b1.isLt; have := w.b2.isLt; have := w.b3.isLt; have := w.b4.isLt; have := w.b5.isLt
  interval_cases n <;> simp only [Finset.sum_range_succ, Finset.sum_range_zero, Word.mag, Word.byte] <;> omega

/-- The field of the inserted word holds the low bytes of the stored one, byte `k` its byte `5 - (R - k)`. -/
theorem fieldMag_insertField (d r : Word) {p : FieldSpec} (h : p.r ≤ 5) :
    fieldMag (insertField d r p) p = r.mag % 64 ^ (p.r + 1 - p.first) := by
  have hfirst : 1 ≤ p.first := le_max_right _ _
  rw [Word.mag_mod_pow r (by omega), fieldMag_eq_sum]
  refine Finset.sum_nbij' (fun k => p.r - k) (fun j => p.r - j) ?_ ?_ ?_ ?_ ?_
  · intro k hk
    have hk' : p.first ≤ k ∧ k ≤ p.r := Finset.mem_Icc.1 hk
    rw [Finset.mem_range]
    omega
  · intro j hj
    rw [Finset.mem_range] at hj
    rw [Finset.mem_Icc]
    exact ⟨show p.first ≤ p.r - j by omega, by omega⟩
  · intro k hk
    rw [Finset.mem_Icc] at hk
    omega
  · intro j hj
    rw [Finset.mem_range] at hj
    omega
  · intro k hk
    have hk' : p.first ≤ k ∧ k ≤ p.r := Finset.mem_Icc.1 hk
    rw [insertField_byte d r p (by omega) (by omega), if_pos hk']

/-- Settles O52: the bytes one by one, and the field of the result as a sum of bytes. -/
theorem fieldInsertion : Obligations.FieldInsertion := by
  refine ⟨fun d r f => storeField_eq_none, fun d r f hlr hr => ⟨_, storeField_eq_some hlr hr, rfl, ?_, ?_⟩⟩
  · exact fun k h1 h5 => insertField_byte d r _ h1 h5
  · exact ⟨_, applyField_eq_some hlr hr, (extractField_mag _ hr).trans (fieldMag_insertField d r hr)⟩

end Sys2Proof.Machine
end

section
/-! PROOF. The time table (41_cycle.md R215): an entry is read by opcode and variant alone, any table of costs is one, and
the default figures. -/

namespace Sys2Proof.Machine

/-! ### Costs -/

/-- The opcodes whose cost is an entry of the table: all but MOVE, IOC, IN and OUT. -/
theorem cost_of_entry {i : Instr} (h : opByte i ∉ [7, 35, 36, 37]) (s : State) :
    cost s i = (s.params.time.entry (opByte i) (variantOf i)).units := by
  simp only [List.mem_cons, List.not_mem_nil, or_false] at h
  unfold cost
  rw [if_neg (by omega), if_neg (by omega)]

theorem variantRole_eq_isSome (c : Nat) : variantRole c = (variantCount c).isSome := by
  unfold variantRole variantCount
  split_ifs <;> simp <;> omega

theorem variantOf_eq (i : Instr) : variantOf i = if (variantCount (opByte i)).isSome then fByte i else 0 := by
  unfold variantOf
  rw [variantRole_eq_isSome]

theorem opByte_lt (i : Instr) : opByte i < 64 := (encode i).b5.isLt

theorem fByte_lt (i : Instr) : fByte i < 64 := (encode i).b4.isLt

/-- An instruction's F byte is one of its opcode's variants. -/
theorem fByte_lt_of_variantCount {i : Instr} {k : Nat} (h : variantCount (opByte i) = some k) : fByte i < k :=
  exists_decode_iff.1 ⟨i, decode_encode i⟩ k h

/-! ### Any table -/

/-- The table with the costs `g`, by opcode and variant. -/
def costTableOf (g : Nat → Nat → Nat) : CostTable :=
  (List.range 64).map fun c => (List.range 64).map fun v => TimeUnits.of (g c v)

theorem costTableOf_entry {g : Nat → Nat → Nat} {c v : Nat} (hc : c < 64) (hv : v < 64) (hg : 1 ≤ g c v) :
    ((costTableOf g).entry c v).units = g c v := by
  have hentry : (costTableOf g).entry c v = TimeUnits.of (g c v) := by
    simp [CostTable.entry, costTableOf, List.getD_eq_getElem?_getD, hc, hv]
  rw [hentry]
  exact Nat.sub_add_cancel hg

/-! ### The default table -/

/-- The default figures, but for MOVE, IOC, IN and OUT, which have none. -/
def defaultFigure (c f : Nat) : Nat :=
  if c = 0 then 1
  else if c ≤ 2 then 2
  else if c = 3 then 10
  else if c = 4 then 12
  else if c = 5 then (if f = 2 then 1 else 10)
  else if c ≤ 33 then 2
  else if c = 34 ∨ c = 38 then 1
  else if c ≤ 55 then 1
  else 2

/-- All the default figures of R215, with `io` for the cost of IOC, IN and OUT. -/
def figure (c f io : Nat) : Nat :=
  if c = 0 then 1
  else if c ≤ 2 then 2
  else if c = 3 then 10
  else if c = 4 then 12
  else if c = 5 then (if f = 2 then 1 else 10)
  else if c = 6 then 2
  else if c = 7 then 1 + 2 * f
  else if c ≤ 33 then 2
  else if c = 34 ∨ c = 38 then 1
  else if c ≤ 37 then io
  else if c ≤ 55 then 1
  else 2

theorem figure_of_move {c f io : Nat} (h : c = 7) : figure c f io = 1 + 2 * f := by subst h; rfl

theorem figure_of_io {c f io : Nat} (h : 35 ≤ c ∧ c ≤ 37) : figure c f io = io := by
  obtain ⟨h35, h37⟩ := h
  interval_cases c <;> rfl

theorem figure_of_entry {c f io : Nat} (hmove : c ≠ 7) (hio : ¬ (35 ≤ c ∧ c ≤ 37)) :
    figure c f io = defaultFigure c f := by
  unfold figure defaultFigure
  iterate 5 refine ite_congr rfl (fun _ => rfl) fun _ => ?_
  by_cases h33 : c ≤ 33
  · simp [h33, hmove]
  · have h6 : c ≠ 6 := by omega
    rw [if_neg h6, if_neg hmove, if_neg h33, if_neg h33]
    refine ite_congr rfl (fun _ => rfl) fun _ => if_neg (by omega)

theorem variantCount_le {c k : Nat} (h : variantCount c = some k) : k ≤ 10 := by
  unfold variantCount at h
  split_ifs at h <;> cases h <;> decide

/-- The rows of the default table, each as long as its opcode has variants. -/
theorem default_entry : ∀ c : Fin 64, c.val ∉ [7, 35, 36, 37] → ∀ v : Fin 10, v.val < (variantCount c).getD 1 →
    (CostTable.default.entry c v).units = defaultFigure c v := by
  decide +kernel

/-- Only opcode 5 has variants of different costs. -/
theorem defaultFigure_of_no_variants {c : Nat} (h : variantCount c = none) (f : Nat) :
    defaultFigure c f = defaultFigure c 0 := by
  have hc : c ≠ 5 := by rintro rfl; cases h
  simp only [defaultFigure, if_neg hc]

theorem default_cost {s : State} {i : Instr} (ht : s.params.time = State.reset.params.time)
    (h : opByte i ∉ [7, 35, 36, 37]) : cost s i = defaultFigure (opByte i) (fByte i) := by
  have hentry := default_entry ⟨opByte i, opByte_lt i⟩ h
  rw [cost_of_entry h, ht, variantOf_eq]
  cases hk : variantCount (opByte i) with
  | none =>
    simp only [hk] at hentry
    exact (hentry 0 Nat.one_pos).trans (defaultFigure_of_no_variants hk _).symm
  | some k =>
    have hf := fByte_lt_of_variantCount hk
    simp only [hk] at hentry
    exact hentry ⟨fByte i, hf.trans_le (variantCount_le hk)⟩ hf

theorem cost_of_move {s : State} {i : Instr} (h : opByte i = 7) : cost s i = 1 + 2 * fByte i := if_pos h

theorem cost_of_io {s : State} {i : Instr} (h : 35 ≤ opByte i ∧ opByte i ≤ 37) :
    cost s i = 1 + (s.dev (fByte i)).timer := by
  unfold cost
  rw [if_neg (by omega), if_pos h, ioCost]

theorem cost_move (s : State) (m : Addr) (f : Byte) : cost s (.move m f) = 1 + 2 * f.toNat := rfl

/-- Settles O15: the three forms of a cost, and the tables evaluated. -/
theorem timeTable : Obligations.TimeTable := by
  refine ⟨cost_pos, fun s m f => ⟨cost_move s m f, ?_⟩, fun s t i j hst hop hne hv => ?_, fun g hg => ?_,
    fun s i ht => ?_⟩
  · intro e he
    simp only [List.mem_cons, List.not_mem_nil, or_false] at he
    rcases he with rfl | rfl | rfl <;> rfl
  · have hvar : variantOf i = variantOf j := by
      rw [variantOf_eq, variantOf_eq, ← hop]
      rcases hv with hnone | hf
      · simp [hnone]
      · rw [hf]
    rw [cost_of_entry hne, cost_of_entry (hop ▸ hne), hst, hop, hvar]
  · refine ⟨costTableOf g, fun s i hs hne => ?_⟩
    have hvar : variantOf i < 64 := by
      unfold variantOf
      split
      · exact fByte_lt i
      · decide
    rw [cost_of_entry hne, hs, costTableOf_entry (opByte_lt i) hvar (hg _ _), variantOf_eq]
  · show cost s i = figure (opByte i) (fByte i) (1 + (s.dev (fByte i)).timer)
    by_cases hmove : opByte i = 7
    · rw [cost_of_move hmove, figure_of_move hmove]
    · by_cases hio : 35 ≤ opByte i ∧ opByte i ≤ 37
      · rw [cost_of_io hio, figure_of_io hio]
      · have hne : opByte i ∉ [7, 35, 36, 37] := by
          simp only [List.mem_cons, List.not_mem_nil, or_false]
          omega
        rw [default_cost ht hne, figure_of_entry hmove hio]

end Sys2Proof.Machine
end

section
/-! PROOF. Reset and load (10_state.md R45, 70_reset_and_hazards.md R600, R602). -/

namespace Sys2Proof.Machine

theorem resetWith_reg (p : Params) (r : Reg) : (State.resetWith p).reg r = Word.plusZero := by cases r <;> rfl

/-- Settles O17: the reset state is given by its fields. -/
theorem resetState : Obligations.ResetState := by
  refine ⟨fun p => ?_, rfl, rfl, rfl, rfl, rfl⟩
  refine ⟨resetWith_reg p, rfl, rfl, rfl, rfl, fun _ => rfl, rfl, fun u hu => ?_, fun _ => ⟨rfl, rfl⟩, rfl⟩
  rw [resetWith_dev p hu]
  exact ⟨rfl, rfl, rfl, rfl, rfl, fun _ => rfl⟩

/-! ### Placing an image -/

/-- The image goes into memory and nowhere else. -/
theorem putImage_eq_setMem (image : List (Nat × Word)) (s : State) :
    ∃ mem, putImage s image = s.setMem mem ∧ (Memory.wf s.mem = true → Memory.wf mem = true) := by
  induction image generalizing s with
  | nil => exact ⟨s.mem, rfl, id⟩
  | cons cell rest ih =>
    obtain ⟨a, w⟩ := cell
    rw [putImage]
    split
    · rename_i ha
      obtain ⟨mem, heq, hwf⟩ := ih (s.putWord a w)
      exact ⟨mem, heq, fun h => hwf (State.putWord_wf h ha w)⟩
    · exact ih s

theorem putImage_wordAt_of_not_mem {image : List (Nat × Word)} {a : Nat} (h : ∀ c ∈ image, c.1 ≠ a) (s : State) :
    (putImage s image).wordAt a = s.wordAt a := by
  induction image generalizing s with
  | nil => rfl
  | cons cell rest ih =>
    obtain ⟨b, w⟩ := cell
    rw [List.forall_mem_cons] at h
    obtain ⟨hb, hrest⟩ := h
    rw [putImage, ih hrest]
    split
    · exact State.putWord_wordAt_of_ne s w (Ne.symm hb)
    · rfl

theorem putImage_wordAt_of_mem {image : List (Nat × Word)} {a : Nat} {w : Word} (hin : ∀ c ∈ image, c.1 ≤ 3999)
    (hnodup : (image.map Prod.fst).Nodup) (hmem : (a, w) ∈ image) {s : State} (hs : Memory.wf s.mem = true) :
    (putImage s image).wordAt a = w := by
  induction image generalizing s with
  | nil => cases hmem
  | cons cell rest ih =>
    obtain ⟨b, v⟩ := cell
    rw [List.forall_mem_cons] at hin
    obtain ⟨hb, hin⟩ := hin
    rw [List.map_cons, List.nodup_cons] at hnodup
    obtain ⟨hnew, hnodup⟩ := hnodup
    have hlt : b < memWords := Nat.lt_succ_of_le hb
    rw [putImage, if_pos hlt]
    rcases List.mem_cons.1 hmem with heq | hmem
    · cases heq
      rw [putImage_wordAt_of_not_mem, State.putWord_wordAt_self hs]
      exact fun c hc hcell => hnew (hcell ▸ List.mem_map.2 ⟨c, hc, rfl⟩)
    · exact ih hin hnodup hmem (State.putWord_wf hs hlt v)

theorem hostReset_wordAt (s : State) (a : Nat) : (hostReset s).wordAt a = Word.plusZero := rfl

/-- Settles O20: the image is put into a reset machine, and then pc is set. -/
theorem loadPlacesTheImage : Obligations.LoadPlacesTheImage := by
  intro s image entry hin hnodup
  have hword (a : Nat) : (hostLoad s image entry).wordAt a = (putImage (hostReset s) image).wordAt a := rfl
  obtain ⟨mem, heq, hwf⟩ := putImage_eq_setMem image (hostReset s)
  have hload : hostLoad s image entry = ((hostReset s).setMem mem).setPc entry := by rw [hostLoad, heq]
  refine ⟨fun a w hmem => ?_, fun a hnot => ?_, ?_⟩
  · rw [hword]
    exact putImage_wordAt_of_mem hin hnodup hmem rfl
  · rw [hword, putImage_wordAt_of_not_mem hnot]
    exact hostReset_wordAt s a
  · rw [hload]
    refine ⟨rfl, fun r _ => by cases r <;> rfl, rfl, rfl, rfl, rfl, rfl, rfl, hwf rfl, fun hentry => ?_⟩
    exact fetchOutOfRangeHalts _ rfl hentry

end Sys2Proof.Machine
end

section
/-! PROOF. Loads, stores, arithmetic, compares and address transfers (42_load_store.md, 43_arithmetic.md, 46_compare.md,
48_address_transfer.md): the operand, the state the family's operation answers, and its frame. -/

namespace Sys2Proof.Machine

variable {s t : State} {m : Addr} {f : Byte} {ma d q : Word} {p : FieldSpec} {r : Reg}

/-! ### Frames -/

/-- What is left when an instruction has written one register and advanced pc. -/
theorem frame_of_setReg_seq (s : State) (r : Reg) (w : Word) :
    regsKept [r] s (s.setReg r w).seq ∧ (s.setReg r w).seq.pc = s.pc + 1 ∧ memKept s (s.setReg r w).seq ∧
      flagsKept s (s.setReg r w).seq ∧ surroundingsKept s (s.setReg r w).seq := by
  refine ⟨fun q hq => ?_, by simp, fun n => by simp, ⟨by simp, by simp⟩, ⟨by simp, by simp, by simp⟩, by simp,
    by simp, by simp, by simp⟩
  rw [State.seq_reg, State.setReg_reg_of_ne s w (by simpa using hq)]

/-- The same of an instruction that may set the overflow flag besides. -/
theorem frame_of_setReg_raiseOvf_seq (s : State) (r : Reg) (w : Word) (o : Bool) :
    ((s.setReg r w).raiseOvf o).seq.ci = s.ci ∧ regsKept [r] s ((s.setReg r w).raiseOvf o).seq ∧
      ((s.setReg r w).raiseOvf o).seq.pc = s.pc + 1 ∧ memKept s ((s.setReg r w).raiseOvf o).seq ∧
      surroundingsKept s ((s.setReg r w).raiseOvf o).seq := by
  refine ⟨by simp, fun q hq => ?_, by simp, fun n => by simp, ⟨by simp, by simp, by simp⟩, by simp, by simp, by simp,
    by simp⟩
  rw [State.seq_reg, State.raiseOvf_reg, State.setReg_reg_of_ne s w (by simpa using hq)]

theorem fieldOperand_of_addrOk (hm : effAddr m s = .ok ma) (hf : fieldSpec f = some p) (ha : addrOk ma.val = true) :
    fieldOperand m f s = .ok (p, extractField (s.wordAt ma.val.toNat) p) :=
  fieldOperand_eq_ok.2 ⟨ma, hm, hf, ha, rfl⟩

theorem exec_eq_next {i : Instr} {φ : Phase State} (hx : exec i s = outcome φ) (hφ : φ = .ok t) :
    exec i s = .next t := by
  rw [hx, hφ]
  rfl

/-! ### Loads and stores -/

/-- Settles O26: the register receives the field, or its negation. -/
theorem loadsSetTheRegister : Obligations.LoadsSetTheRegister := by
  intro e he m f s ma p hm hf ha
  have hv := fieldOperand_of_addrOk hm hf ha
  rcases List.mem_append.1 he with h | h
  · obtain ⟨e, hmem, rfl⟩ := List.mem_map.1 h
    refine ⟨_, exec_eq_next (exec_of_mem_loadForms hmem m f s) (loadReg_ok hv), ?_, ?_,
      frame_of_setReg_seq s _ _⟩
    · rw [State.seq_reg, State.setReg_reg_self]; rfl
    · rw [State.seq_reg, State.setReg_reg_self]
  · obtain ⟨e, hmem, rfl⟩ := List.mem_map.1 h
    refine ⟨_, exec_eq_next (exec_of_mem_loadNegForms hmem m f s) (loadNegReg_ok hv), ?_, ?_,
      frame_of_setReg_seq s _ _⟩
    · rw [State.seq_reg, State.setReg_reg_self, negate_sign]
    · rw [State.seq_reg, State.setReg_reg_self, negate_mag]

/-- Settles O27: one word of a canonical memory is written. -/
theorem storesReplaceTheField : Obligations.StoresReplaceTheField := by
  intro e he m f s ma p hwf hm hf ha
  refine ⟨_, exec_eq_next (exec_of_mem_allStoreForms he m f s) (storeWord_ok hm hf ha), ?_,
    fun n hn => ?_, fun r _ => ?_, rfl, ⟨rfl, rfl⟩, ⟨rfl, rfl, rfl⟩, rfl, rfl, rfl, rfl⟩
  · rw [State.seq_wordAt, State.putWord_wordAt_self hwf]
  · rw [State.seq_wordAt, State.putWord_wordAt_of_ne s _ hn]
  · rw [State.seq_reg, State.putWord_reg]

/-! ### Sums and differences -/

/-- Sign-magnitude addition into a register, with the overflow flag. -/
theorem smAdd_sumInto (d q : Word) (ovf : Bool) :
    sumInto d (d.val + q.val) ovf (smAdd d q).1 (ovf || (smAdd d q).2) := by
  have hd := d.natAbs_val
  have hq := q.natAbs_val
  have hdm := d.mag_lt
  have hqm := q.mag_lt
  rcases smAdd_cases d q with ⟨hs, hsign, ⟨hlt, hmag, ho⟩ | ⟨hle, hmag, ho⟩⟩ | ⟨hs, ho, hcases⟩
  · have hval := smAdd_val ho
    have habs := (smAdd d q).1.natAbs_val
    exact ⟨fun _ => ⟨hval, by simp [ho]⟩, fun h => by omega, fun _ => hsign⟩
  · have habs : (d.val + q.val).natAbs = d.mag + q.mag := by
      cases hds : d.sign <;> simp only [Word.val, ← hs, hds] <;> omega
    exact ⟨fun h => by omega, fun _ => ⟨hsign, by omega, by simp [ho]⟩, fun _ => hsign⟩
  · have hval := smAdd_val ho
    have habs := (smAdd d q).1.natAbs_val
    have hlt := (smAdd d q).1.mag_lt
    refine ⟨fun _ => ⟨hval, by simp [ho]⟩, fun h => by omega, fun hzero => ?_⟩
    rcases hcases with ⟨-, hsign, -⟩ | ⟨hgt, -, hmag⟩ | ⟨-, hsign, -⟩
    · exact hsign
    · omega
    · exact hsign

theorem smSub_sumInto (d q : Word) (ovf : Bool) :
    sumInto d (d.val - q.val) ovf (smSub d q).1 (ovf || (smSub d q).2) := by
  rw [Int.sub_eq_add_neg, ← negate_val]
  exact smAdd_sumInto d (negate q) ovf

/-- Settles O28: A receives `smAdd` or `smSub`. -/
theorem addSubExact : Obligations.AddSubExact := by
  intro e he m f s ma p hm hf ha
  have hv := fieldOperand_of_addrOk hm hf ha
  simp only [addSubForms, List.mem_cons, List.not_mem_nil, or_false] at he
  rcases he with rfl | rfl
  · exact ⟨_, congrArg outcome (addToA_ok hv), smAdd_sumInto _ _ _, frame_of_setReg_raiseOvf_seq s .A _ _⟩
  · exact ⟨_, congrArg outcome (subFromA_ok hv), smSub_sumInto _ _ _, frame_of_setReg_raiseOvf_seq s .A _ _⟩

/-- The register after INCr and DECr, as `sumInto` wants it. -/
theorem sumInto_setReg_raiseOvf {n : Int} {w : Word} {o : Bool} (h : sumInto (s.reg r) n s.ovf w (s.ovf || o)) :
    sumInto (s.reg r) n s.ovf (((s.setReg r w).raiseOvf o).seq.reg r) ((s.setReg r w).raiseOvf o).seq.ovf := by
  simpa using h

/-- Settles O43: the register receives `smAdd` or `smSub`. -/
theorem incDecExact : Obligations.IncDecExact := by
  intro e he m s ma hm
  rcases List.mem_append.1 he with h | h
  · obtain ⟨e, hmem, rfl⟩ := List.mem_map.1 h
    exact ⟨_, exec_eq_next (exec_of_mem_incForms hmem m s) (incReg_ok hm),
      sumInto_setReg_raiseOvf (smAdd_sumInto _ _ _), frame_of_setReg_raiseOvf_seq s _ _ _⟩
  · obtain ⟨e, hmem, rfl⟩ := List.mem_map.1 h
    exact ⟨_, exec_eq_next (exec_of_mem_decForms hmem m s) (decReg_ok hm),
      sumInto_setReg_raiseOvf (smSub_sumInto _ _ _), frame_of_setReg_raiseOvf_seq s _ _ _⟩

/-- Settles O44: the register receives M, or its negation. -/
theorem entEnnEnterM : Obligations.EntEnnEnterM := by
  intro e he m s ma hm
  rcases List.mem_append.1 he with h | h
  · obtain ⟨e, hmem, rfl⟩ := List.mem_map.1 h
    refine ⟨_, exec_eq_next (exec_of_mem_entForms hmem m s) (entReg_ok hm), ?_, ?_,
      frame_of_setReg_seq s _ _⟩
    · rw [State.seq_reg, State.setReg_reg_self]; rfl
    · rw [State.seq_reg, State.setReg_reg_self]
  · obtain ⟨e, hmem, rfl⟩ := List.mem_map.1 h
    refine ⟨_, exec_eq_next (exec_of_mem_ennForms hmem m s) (ennReg_ok hm), ?_, ?_,
      frame_of_setReg_seq s _ _⟩
    · rw [State.seq_reg, State.setReg_reg_self, negate_sign]
    · rw [State.seq_reg, State.setReg_reg_self, negate_mag]

/-! ### Division -/

theorem smDiv_eq_none {rule : RemSign} {a x v : Word} (h : v.mag = 0 ∨ v.mag ≤ a.mag) : smDiv rule a x v = none :=
  if_pos h

/-- A quotient that fits: the dividend is below 2^30 times the divisor. -/
theorem smDiv_eq_some {rule : RemSign} {a x v : Word} (h : a.mag < v.mag) :
    ∃ quot rem, smDiv rule a x v = some (quot, rem) ∧ quot.mag * v.mag + rem.mag = magLimit * a.mag + x.mag ∧
      rem.mag < v.mag ∧ quot.sign = Sign.same a.sign v.sign ∧
      rem.sign = if rule = .product then quot.sign else a.sign := by
  have hx := x.mag_lt
  have hv := v.mag_lt
  have hpos : 0 < v.mag := by omega
  have hdividend : magLimit * a.mag + x.mag < v.mag * magLimit := by
    have hscaled : magLimit * (a.mag + 1) ≤ magLimit * v.mag := Nat.mul_le_mul_left _ h
    rw [Nat.mul_comm v.mag]
    rw [Nat.mul_succ] at hscaled
    omega
  have hrem := Nat.mod_lt (magLimit * a.mag + x.mag) hpos
  refine ⟨_, _, if_neg (by omega), ?_, ?_, rfl, ?_⟩
  · rw [Word.mag_ofMag _ (Nat.div_lt_of_lt_mul hdividend), Word.mag_ofMag _ (hrem.trans hv)]
    exact Nat.div_add_mod' _ _
  · rwa [Word.mag_ofMag _ (hrem.trans hv)]
  · cases rule <;> rfl

/-- Settles O30: `smDiv` in its two cases. -/
theorem divExactOrHalts : Obligations.DivExactOrHalts := by
  intro m f s ma p hm hf ha
  have hv := fieldOperand_of_addrOk hm hf ha
  refine ⟨fun hlt => ?_, fun hfail => ?_⟩
  · obtain ⟨quot, rem, hdiv, hexact, hrem, hqsign, hrsign⟩ :=
      smDiv_eq_some (rule := s.params.divRemSign) (x := s.x) hlt
    exact ⟨_, congrArg outcome (divideAX_ok hv hdiv), hexact, hrem, hqsign, hrsign, frame_of_setReg_setReg_seq rfl⟩
  · exact congrArg outcome (divideAX_fail hv (smDiv_eq_none hfail))

/-! ### Compares -/

/-- The comparison of two words is the order of their values. -/
theorem compareWords_eq (a b : Word) :
    compareWords a b = if a.val < b.val then .less else if a.val = b.val then .equal else .greater := by
  unfold compareWords
  cases ha : a.sign <;> cases hb : b.sign <;> simp only [Word.val, ha, hb] <;> split_ifs <;> first | rfl | omega

/-- Settles O39: ci receives the comparison of the two fields. -/
theorem comparesOrderTheValues : Obligations.ComparesOrderTheValues := by
  intro e he m f s ma p hm hf ha
  have hv := fieldOperand_of_addrOk hm hf ha
  exact ⟨_, exec_eq_next (exec_of_mem_compareForms he m f s) (compareReg_ok hv), compareWords_eq _ _, rfl,
    fun r _ => by rw [State.seq_reg, State.setCi_reg], rfl, fun _ => rfl, ⟨rfl, rfl, rfl⟩, rfl, rfl, rfl, rfl⟩

/-! ### The address check -/

theorem addrOk_eq_false_iff {n : Int} : addrOk n = false ↔ n < 0 ∨ 4000 ≤ n := by
  rw [← Bool.not_eq_true, addrOk_iff]
  omega

theorem fieldOperand_of_addrOk_eq_false (hm : effAddr m s = .ok ma) (hf : fieldSpec f = some p)
    (ha : addrOk ma.val = false) : fieldOperand m f s =
      .error (s.setRun (.halted .illegalAddress { pc := s.pc, addr := some ma.val })) := by
  rw [fieldOperand, hm, Phase.ok_bind, fieldOf_eq_ok.2 hf, Phase.ok_bind, memRead_eq_error.2 ⟨ha, rfl⟩,
    Phase.error_bind]

/-- Settles O50: the check of `memRead` and `memWrite`, and the operand that fails by it. -/
theorem addressCheck : Obligations.AddressCheck := by
  refine ⟨fun n w s => ⟨fun hbad => ?_, fun h0 h4000 => ?_⟩, rfl, fun e he m f s ma hm hf hbad => ?_⟩
  · have ha := addrOk_eq_false_iff.2 hbad
    exact ⟨memRead_eq_error.2 ⟨ha, rfl⟩, memWrite_eq_error.2 ⟨ha, rfl⟩⟩
  · have ha := addrOk_iff.2 ⟨h0, h4000⟩
    exact ⟨memRead_eq_ok.2 ⟨ha, rfl⟩, _, memWrite_eq_ok.2 ⟨ha, rfl⟩, fun hwf => State.putWord_wordAt_self hwf _ w,
      fun k hk => State.putWord_wordAt_of_ne s w hk⟩
  · obtain ⟨p, hp⟩ := Option.isSome_iff_exists.1 hf
    exact exec_of_fieldOperand_eq_error he
      (fieldOperand_of_addrOk_eq_false hm hp (addrOk_eq_false_iff.2 hbad))

end Sys2Proof.Machine
end

section
/-! PROOF. The jumps (47_jump.md R380 to R438, 49_io.md R502, R503): a jump that is taken, one that is not, and the test
that decides between them. -/

namespace Sys2Proof.Machine

variable {s t : State} {m : Addr} {f : Byte} {ma : Word} {target : Int}

/-! ### Taken or not -/

theorem takenJump_takeJump (ha : addrOk s.pc = true) (target : Int) : takenJump s target (s.takeJump target) := by
  rw [addrOk_iff] at ha
  refine ⟨rfl, rfl, ?_, fun r hr => State.takeJump_reg_of_ne s target (by simpa using hr), fun _ => rfl,
    ⟨rfl, rfl, rfl⟩, rfl, rfl, rfl, rfl⟩
  rw [State.takeJump_j, Word.mag_ofMag _ (show (s.pc + 1).toNat < magLimit by simp only [magLimit]; omega)]
  omega

theorem notTakenJump_seq (s : State) : notTakenJump s s.seq :=
  ⟨rfl, fun r _ => State.seq_reg s r, fun _ => rfl, ⟨rfl, rfl, rfl⟩, rfl, rfl, rfl, rfl⟩

/-- Clearing the overflow flag first makes no difference to a jump. -/
theorem takenJump_setOvf_takeJump (ha : addrOk s.pc = true) (b : Bool) (target : Int) :
    takenJump s target ((s.setOvf b).takeJump target) := by
  obtain ⟨hpc, hj, hmag, hregs, hmem, hsurroundings⟩ := takenJump_takeJump (s := s.setOvf b) ha target
  exact ⟨hpc, hj, hmag, fun r hr => (hregs r hr).trans (State.setOvf_reg s b r), hmem, hsurroundings⟩

theorem notTakenJump_setOvf_seq (s : State) (b : Bool) : notTakenJump s (s.setOvf b).seq :=
  ⟨rfl, fun r _ => (State.seq_reg _ r).trans (State.setOvf_reg s b r), fun _ => rfl, ⟨rfl, rfl, rfl⟩, rfl, rfl, rfl,
    rfl⟩

theorem flagsKept_ite (c : Prop) [Decidable c] (target : Int) :
    flagsKept s (if c then s.takeJump target else s.seq) := by
  split <;> exact ⟨rfl, rfl⟩

/-- A jump decided by a test. -/
theorem jump_ite (ha : addrOk s.pc = true) {c c' : Prop} [Decidable c] [Decidable c'] (hc : c ↔ c') :
    if c' then takenJump s target (if c then s.takeJump target else s.seq)
    else notTakenJump s (if c then s.takeJump target else s.seq) := by
  by_cases h : c
  · rw [if_pos (hc.1 h), if_pos h]
    exact takenJump_takeJump ha target
  · rw [if_neg (mt hc.2 h), if_neg h]
    exact notTakenJump_seq s

/-! ### JMP, JSJ, JOV, JNOV -/

/-- Settles O40: JOV and JNOV by the two values of the flag. -/
theorem plainAndOverflowJumps : Obligations.PlainAndOverflowJumps := by
  intro m s ma hm ha
  refine ⟨⟨_, congrArg outcome (jumpAlways_ok hm), takenJump_takeJump ha _, rfl, rfl⟩, ⟨_, congrArg outcome
    (jumpSaveJ_ok hm), rfl, fun r _ => State.jumpTo_reg s _ r, fun _ => rfl, ⟨rfl, rfl⟩, ⟨rfl, rfl, rfl⟩, rfl, rfl, rfl,
    rfl⟩, ⟨_, congrArg outcome (jumpOverflow_ok hm), ?_⟩, ⟨_, congrArg outcome (jumpNoOverflow_ok hm), ?_⟩⟩
  · cases hovf : s.ovf
    · exact ⟨hovf, rfl, notTakenJump_seq s⟩
    · exact ⟨rfl, rfl, takenJump_setOvf_takeJump ha false _⟩
  · cases hovf : s.ovf
    · exact ⟨hovf, rfl, takenJump_takeJump ha _⟩
    · exact ⟨rfl, rfl, notTakenJump_setOvf_seq s false⟩

/-! ### The comparison jumps -/

theorem exec_of_mem_ciJumpForms {e : List Cmp × (Addr → Instr)} (he : e ∈ ciJumpForms) :
    ∃ test : CiTest, (∀ c, test.holds c = true ↔ c ∈ e.1) ∧ ∀ m s, exec (e.2 m) s = outcome (jumpCi test m s) := by
  simp only [ciJumpForms, List.mem_cons, List.not_mem_nil, or_false] at he
  rcases he with rfl | rfl | rfl | rfl | rfl | rfl
  · exact ⟨.less, by intro c; cases c <;> decide, fun _ _ => rfl⟩
  · exact ⟨.equal, by intro c; cases c <;> decide, fun _ _ => rfl⟩
  · exact ⟨.greater, by intro c; cases c <;> decide, fun _ _ => rfl⟩
  · exact ⟨.greaterEqual, by intro c; cases c <;> decide, fun _ _ => rfl⟩
  · exact ⟨.notEqual, by intro c; cases c <;> decide, fun _ _ => rfl⟩
  · exact ⟨.lessEqual, by intro c; cases c <;> decide, fun _ _ => rfl⟩

/-- Settles O41: each jump's test and its list of values. -/
theorem comparisonJumps : Obligations.ComparisonJumps := by
  intro e he m s ma hm ha
  obtain ⟨test, htest, hexec⟩ := exec_of_mem_ciJumpForms he
  exact ⟨_, exec_eq_next (hexec m s) (jumpCi_ok hm), flagsKept_ite _ _, jump_ite ha (htest s.ci)⟩

/-! ### The register jumps -/

theorem isNeg_eq (w : Word) : isNeg w = decide (w.val < 0) := by
  cases hs : w.sign <;> simp [isNeg, Word.val, hs]

theorem isZero_eq (w : Word) : isZero w = decide (w.val = 0) := by
  cases hs : w.sign <;> simp [isZero, Word.val, hs]

theorem isPos_eq (w : Word) : isPos w = decide (0 < w.val) := by
  cases hs : w.sign <;> simp [isPos, Word.val, hs]

/-- The test of a register jump on a value. -/
def RegTest.onVal : RegTest → Int → Bool
  | .neg, v => decide (v < 0)
  | .zero, v => decide (v = 0)
  | .pos, v => decide (0 < v)
  | .nonNeg, v => decide (0 ≤ v)
  | .nonZero, v => decide (v ≠ 0)
  | .nonPos, v => decide (v ≤ 0)

theorem RegTest.holds_eq (test : RegTest) (w : Word) : test.holds w = test.onVal w.val := by
  cases test with
  | neg => exact isNeg_eq w
  | zero => exact isZero_eq w
  | pos => exact isPos_eq w
  | nonNeg => simp [RegTest.holds, RegTest.onVal, isNeg_eq, ← decide_not]
  | nonZero => simp [RegTest.holds, RegTest.onVal, isZero_eq]
  | nonPos => simp [RegTest.holds, RegTest.onVal, isPos_eq, ← decide_not]

/-- The 48 register jumps, test by test. -/
theorem exec_of_mem_regJumpForms {e : (Int → Bool) × Reg × (Addr → Instr)} (he : e ∈ regJumpForms) :
    ∃ test : RegTest, test.onVal = e.1 ∧ ∀ m s, exec (e.2.2 m) s = outcome (jumpReg e.2.1 test m s) := by
  simp only [regJumpForms, List.mem_append, List.mem_map] at he
  rcases he with ((((h | h) | h) | h) | h) | h <;> obtain ⟨e', hmem, rfl⟩ := h
  · exact ⟨.neg, rfl, exec_of_mem_jumpNegForms hmem⟩
  · exact ⟨.zero, rfl, exec_of_mem_jumpZeroForms hmem⟩
  · exact ⟨.pos, rfl, exec_of_mem_jumpPosForms hmem⟩
  · exact ⟨.nonNeg, rfl, exec_of_mem_jumpNonNegForms hmem⟩
  · exact ⟨.nonZero, rfl, exec_of_mem_jumpNonZeroForms hmem⟩
  · exact ⟨.nonPos, rfl, exec_of_mem_jumpNonPosForms hmem⟩

/-- Settles O42: each test is one on the value. -/
theorem registerJumps : Obligations.RegisterJumps := by
  intro e he m s ma hm ha
  obtain ⟨test, htest, hexec⟩ := exec_of_mem_regJumpForms he
  refine ⟨_, exec_eq_next (hexec m s) (jumpReg_ok hm), flagsKept_ite _ _, jump_ite ha ?_⟩
  rw [test.holds_eq, htest]

/-! ### JBUS and JRED -/

theorem unitExists_iff : unitExists f = true ↔ f.toNat ≤ 20 := by
  simp only [unitExists, numDevices, decide_eq_true_eq]
  omega

theorem ite_takeJump_swap (c : Prop) [Decidable c] (target : Int) :
    (if c then s.seq else s.takeJump target) = if ¬ c then s.takeJump target else s.seq := by
  split <;> simp_all

/-- Settles O45: the two jumps are decided by the unit's timer. -/
theorem busyAndReadyJumps : Obligations.BusyAndReadyJumps := by
  intro m f s ma hm ha hf
  have hu := unitExists_iff.2 hf
  have hbusy : (s.dev f.toNat).busy = true ↔ 0 < (s.dev f.toNat).timer := decide_eq_true_iff
  refine ⟨⟨_, congrArg outcome (jumpBusy_ok hm hu), flagsKept_ite _ _, jump_ite ha hbusy⟩, ?_⟩
  have hready := jumpReady_ok hm hu
  rw [ite_takeJump_swap] at hready
  refine ⟨_, congrArg outcome hready, flagsKept_ite _ _, jump_ite ha ?_⟩
  rw [hbusy]
  omega

/-! ### The unit check -/

/-- An instruction whose unit check fails halts, whatever its M. -/
theorem unitCheck_fails {β : Type} {ok : Bool} (hu : ok = false) (k : Word → Nat → Phase β) :
    (effAddr m s >>= fun ma => unitOf ok f s >>= fun u => k ma u) =
      .error (s.haltedFor .invalidOpcodeOrVariant) := by
  cases hm : effAddr m s with
  | error h => rw [Phase.error_bind, effAddr_halts hm]
  | ok ma =>
    rw [Phase.ok_bind, unitOf_eq_error.2 ⟨hu, rfl⟩, Phase.error_bind]
    rfl

theorem exec_jbus_of_unit (hu : unitExists f = false) :
    exec (.jbus m f) s = .next (s.haltedFor .invalidOpcodeOrVariant) := congrArg outcome (unitCheck_fails hu _)

theorem exec_jred_of_unit (hu : unitExists f = false) :
    exec (.jred m f) s = .next (s.haltedFor .invalidOpcodeOrVariant) := congrArg outcome (unitCheck_fails hu _)

theorem exec_ioc_of_unit (hu : unitControls f = false) :
    exec (.ioc m f) s = .next (s.haltedFor .invalidOpcodeOrVariant) := congrArg outcome (unitCheck_fails hu _)

theorem exec_inp_of_unit (hu : unitTransfers .input f = false) :
    exec (.inp m f) s = .next (s.haltedFor .invalidOpcodeOrVariant) := congrArg outcome (unitCheck_fails hu _)

theorem exec_out_of_unit (hu : unitTransfers .output f = false) :
    exec (.out m f) s = .next (s.haltedFor .invalidOpcodeOrVariant) := congrArg outcome (unitCheck_fails hu _)

theorem unitKind_of_reservedUnit {u : Nat} (h : reservedUnit u) : unitKind u = .reserved := by
  unfold reservedUnit at h
  unfold unitKind
  rw [if_neg (by omega), if_neg (by omega), if_neg (by omega)]

theorem unitTransfers_of_allows {op : IoOp} (h : (unitKind f.toNat).allows op = false) :
    unitTransfers op f = false := by
  rw [unitTransfers, h, Bool.and_false]

theorem unitControls_of_reserved (h : unitKind f.toNat = .reserved) : unitControls f = false := by
  simp [unitControls, h]

theorem unitExists_eq_false (h : 20 < f.toNat) : unitExists f = false := by
  rw [← Bool.not_eq_true, unitExists_iff]
  omega

/-- Settles O48: the check of each instruction, unit by unit. -/
theorem unitChecks : Obligations.UnitChecks := by
  intro m f s
  refine ⟨fun hf e he => ?_, fun hres e he => ?_, fun hf => ?_, fun hf => ?_, fun hf hm e he => ?_,
    fun hres hs => ?_⟩
  · have hu := unitExists_eq_false hf
    have htransfers (op : IoOp) : unitTransfers op f = false := by rw [unitTransfers, hu, Bool.false_and]
    have hcontrols : unitControls f = false := by rw [unitControls, hu, Bool.false_and]
    simp only [List.mem_cons, List.not_mem_nil, or_false] at he
    rcases he with rfl | rfl | rfl | rfl | rfl
    · exact exec_jbus_of_unit hu
    · exact exec_jred_of_unit hu
    · exact exec_ioc_of_unit hcontrols
    · exact exec_inp_of_unit (htransfers .input)
    · exact exec_out_of_unit (htransfers .output)
  · have hkind := unitKind_of_reservedUnit hres
    have htransfers (op : IoOp) : unitTransfers op f = false := unitTransfers_of_allows (by rw [hkind]; rfl)
    simp only [List.mem_cons, List.not_mem_nil, or_false] at he
    rcases he with rfl | rfl | rfl
    · exact exec_inp_of_unit (htransfers .input)
    · exact exec_out_of_unit (htransfers .output)
    · exact exec_ioc_of_unit (unitControls_of_reserved hkind)
  · exact exec_inp_of_unit (unitTransfers_of_allows (by rw [hf]; rfl))
  · exact exec_out_of_unit (unitTransfers_of_allows (by rw [hf]; rfl))
  · obtain ⟨ma, hma⟩ := effAddr_of_indexOk hm s
    have hu := unitExists_iff.2 hf
    simp only [List.mem_cons, List.not_mem_nil, or_false] at he
    rcases he with rfl | rfl
    · exact ⟨_, congrArg outcome (jumpBusy_ok hma hu), by split <;> rfl⟩
    · exact ⟨_, congrArg outcome (jumpReady_ok hma hu), by split <;> rfl⟩
  · by_contra hne
    have hlt : f.toNat < numDevices := by unfold reservedUnit at hres; simp only [numDevices]; omega
    have hlegal := (hs.dev_ok f.toNat hlt).legal hne
    rw [unitKind_of_reservedUnit hres] at hlegal
    cases hlegal

end Sys2Proof.Machine
end

section
/-! PROOF. The device transfers (49_io.md R495 to R501): the block check, the one request a transfer makes, and the block
it writes. -/

namespace Sys2Proof.Machine

variable {pc0 : Int} {u : Nat} {s t h : State} {q : HostRequest} {text : String}

/-! ### Units and blocks -/

theorem unitKind_of_tape (h : u ≤ 7) : unitKind u = .tape := if_pos h

theorem implementedUnit_of_unitTakes {op : IoOp} (h : unitTakes op u) : implementedUnit u := by
  cases op
  · exact Or.imp_right .inl h
  · exact Or.imp_right .inr h

theorem lt_of_implementedUnit (h : implementedUnit u) : u < 21 := by
  unfold implementedUnit at h
  omega

theorem blockWords_eq (h : implementedUnit u) (s : State) : (unitKind u).blockWords s.params = blockLength s u := by
  rcases h with h | rfl | rfl
  · have h16 : u ≠ 16 := by omega
    have h18 : u ≠ 18 := by omega
    rw [unitKind_of_tape h, blockLength, if_neg h16, if_neg h18]
    rfl
  · rfl
  · rfl

theorem blockOk_iff {a : Int} {n : Nat} : blockOk a n = true ↔ 0 ≤ a ∧ a + n - 1 ≤ 3999 := by
  simp only [blockOk, Bool.and_eq_true, decide_eq_true_eq, memWords]
  omega

/-- The whole block of the unit's pending operation is in memory. -/
def blockInside (s : State) (u : Nat) : Prop := 0 ≤ (s.dev u).addr ∧ (s.dev u).addr + blockLength s u - 1 ≤ 3999

theorem blockOk_of_blockInside (hu : implementedUnit u) (hb : blockInside s u) :
    blockOk (s.dev u).addr ((unitKind u).blockWords s.params) = true := by
  rw [blockWords_eq hu]
  exact blockOk_iff.2 hb

/-! ### A transfer as a request -/

/-- The block that an input transfer writes (R498, R500). -/
def inputBlock (s : State) (u : Nat) : List Word :=
  if u = 16 then (List.range cardBlockWords).map (cardWord (hostCode s .readCard))
  else (List.range s.params.tapeBlockWords).map (hostWord s (.tapeRead u))

theorem inputBlock_length (hu : unitTakes .input u) : (inputBlock s u).length = blockLength s u := by
  unfold inputBlock blockLength
  rcases hu with hu | rfl
  · have h16 : u ≠ 16 := by omega
    have h18 : u ≠ 18 := by omega
    rw [if_neg h16, if_neg h16, if_neg h18, List.length_map, List.length_range]
  · rw [if_pos rfl, if_pos rfl, List.length_map, List.length_range]
    rfl

theorem transferRequest_input (hop : (s.dev u).op = .input) (hu : unitTakes .input u) :
    transferRequest s u = if u = 16 then .readCard else .tapeRead u := by
  unfold transferRequest
  rcases hu with hu | rfl
  · have h16 : u ≠ 16 := by omega
    have h18 : u ≠ 18 := by omega
    simp only [if_neg h16, if_neg h18, hop]
  · rfl

/-- An input transfer asks the host once, and then writes its block. -/
theorem transfer_input (hop : (s.dev u).op = .input) (hu : unitTakes .input u) (hb : blockInside s u) :
    transfer pc0 u s = askHost pc0 u (transferRequest s u) s >>= fun t =>
      .ok (writeBlock t (s.dev u).addr.toNat (inputBlock s u)) := by
  have hok := blockOk_of_blockInside (implementedUnit_of_unitTakes hu) hb
  rw [transferRequest_input hop hu]
  unfold transfer inputBlock
  rcases hu with hu | rfl
  · have h16 : u ≠ 16 := by omega
    rw [unitKind_of_tape hu] at hok
    simp only [unitKind_of_tape hu, hok, if_true, if_neg h16, hop]
    rfl
  · simp only [hok, if_true, hop]
    rfl

theorem transferRequest_output (hop : (s.dev u).op = .output) (hu : unitTakes .output u) :
    transferRequest s u =
      if u = 18 then .printLine ((readBlock s (s.dev u).addr.toNat printerBlockWords).flatMap wordCodes)
      else .tapeWrite u (readBlock s (s.dev u).addr.toNat s.params.tapeBlockWords) := by
  unfold transferRequest
  rcases hu with hu | rfl
  · have h16 : u ≠ 16 := by omega
    have h18 : u ≠ 18 := by omega
    simp only [if_neg h16, if_neg h18, hop]
    rfl
  · simp only [readBlock, List.flatMap_map]
    rfl

/-- An output transfer asks the host once, with the words of its block in the request. -/
theorem transfer_output (hop : (s.dev u).op = .output) (hu : unitTakes .output u) (hb : blockInside s u) :
    transfer pc0 u s = askHost pc0 u (transferRequest s u) s := by
  have hok := blockOk_of_blockInside (implementedUnit_of_unitTakes hu) hb
  rw [transferRequest_output hop hu]
  unfold transfer
  rcases hu with hu | rfl
  · have h18 : u ≠ 18 := by omega
    rw [unitKind_of_tape hu] at hok
    simp only [unitKind_of_tape hu, hok, if_true, if_neg h18, hop]
    rfl
  · simp only [hok, if_true, hop]
    rfl

/-- Either transfer fails as its request does. -/
theorem transfer_of_hostErr (hu : unitTakes (s.dev u).op u) (hb : blockInside s u)
    (he : hostErr s (transferRequest s u) = some text) :
    transfer pc0 u s = failUnit pc0 u text (s.logRequest (transferRequest s u)) := by
  have hask : askHost pc0 u (transferRequest s u) s = failUnit pc0 u text (s.logRequest (transferRequest s u)) := by
    unfold askHost
    rw [he]
  cases hop : (s.dev u).op with
  | input =>
    rw [transfer_input hop (hop ▸ hu) hb, hask]
    rfl
  | output => rw [transfer_output hop (hop ▸ hu) hb, hask]

theorem transfer_of_not_blockInside (hu : implementedUnit u) (hb : ¬ blockInside s u) :
    transfer pc0 u s = failUnit pc0 u badTargetText s := by
  have hbad : blockOk (s.dev u).addr ((unitKind u).blockWords s.params) ≠ true := by
    rw [blockWords_eq hu]
    exact mt blockOk_iff.1 hb
  exact if_neg hbad

/-! ### Failures -/

theorem failsWith_failUnit (hu : u < s.devs.length) : failsWith pc0 u text s (failUnit pc0 u text s) :=
  ⟨_, failUnit_eq_error.2 rfl, State.setDev_dev_self s _ hu, fun _ hv => State.setDev_dev_of_ne s _ hv, rfl,
    fun _ => rfl, coreKept_trans (coreKept_setDev s u _) (coreKept_setRun _ _)⟩

/-- A failed request is one made: only the host's side differs. -/
theorem failsWith_failUnit_logRequest (hu : u < s.devs.length) :
    failsWith pc0 u text s (failUnit pc0 u text (s.logRequest q)) := by
  obtain ⟨h, heq, hdev, hothers, hrun, hmem, hcore⟩ :=
    failsWith_failUnit (pc0 := pc0) (text := text) (s := s.logRequest q) hu
  exact ⟨h, heq, hdev, hothers, hrun, hmem, coreKept_trans (coreKept_logRequest s q) hcore⟩

/-- Settles O55: the block check, and the host's `Err`. -/
theorem transferFailureHalts : Obligations.TransferFailureHalts := by
  intro pc0 u s hlen himpl hu
  have hlt : u < s.devs.length := hlen ▸ lt_of_implementedUnit himpl
  refine ⟨fun hbad => ?_, fun h0 h3999 text he => ?_⟩
  · have hb : ¬ blockInside s u := fun ⟨h0, h3999⟩ => by omega
    rw [transfer_of_not_blockInside himpl hb]
    refine ⟨failsWith_failUnit hlt, fun h heq => ?_⟩
    rw [failUnit_eq_error] at heq
    subst heq
    exact ⟨rfl, rfl⟩
  · rw [transfer_of_hostErr hu ⟨h0, h3999⟩ he]
    refine ⟨failsWith_failUnit_logRequest hlt, fun h heq => ?_⟩
    rw [failUnit_eq_error] at heq
    subst heq
    exact ⟨rfl, rfl⟩

/-! ### Input -/

theorem inputBlock_getElem {k : Nat} (hk : k < (inputBlock s u).length) :
    (inputBlock s u)[k] =
      if u = 16 then cardWord (hostCode s .readCard) k else hostWord s (.tapeRead u) k := by
  unfold inputBlock
  split <;> rw [List.getElem_map, List.getElem_range]

@[simp] theorem writeBlock_hostIn (ws : List Word) (s : State) (a : Nat) : (writeBlock s a ws).hostIn = s.hostIn := by
  induction ws generalizing s a with
  | nil => rfl
  | cons w ws ih => exact ih (s.putWord a w) (a + 1)

/-- Settles O56: the request, and the block written word by word. -/
theorem inputTransfersFillTheBlock : Obligations.InputTransfersFillTheBlock := by
  intro pc0 u s hlen hwf hu hop h0 h3999
  have hlt : u < s.devs.length := hlen ▸ lt_of_implementedUnit (implementedUnit_of_unitTakes hu)
  have hreq := transferRequest_input hop hu
  have hb : blockInside s u := ⟨h0, h3999⟩
  refine ⟨fun hok => ?_, fun text he => ?_⟩
  · rw [← hreq] at hok
    have htransfer := transfer_input (pc0 := pc0) hop hu hb
    rw [askHost_eq_ok.2 ⟨hok, rfl⟩, Phase.ok_bind] at htransfer
    have hsize : (s.dev u).addr.toNat + (inputBlock s u).length ≤ memWords := by
      rw [inputBlock_length hu]
      simp only [memWords]
      omega
    refine ⟨_, htransfer, fun k hk => ?_, fun n hn => ?_, ?_, ?_, ?_, ?_, ?_⟩
    · rw [← inputBlock_length hu] at hk
      rw [writeBlock_wordAt (inputBlock s u) (s := s.logRequest _) hwf hsize hk, inputBlock_getElem hk]
      by_cases h16 : u = 16
      · simp only [if_pos h16]
        rfl
      · simp only [if_neg h16]
    · rw [← inputBlock_length hu] at hn
      rw [writeBlock_wordAt_of_out _ _ _ _ hn]
      rfl
    · rw [writeBlock_hostLog, hreq]
      rfl
    · rw [writeBlock_hostIn]
      rfl
    · rw [writeBlock_devs]
      rfl
    · rw [writeBlock_run]
      rfl
    · exact coreKept_trans (coreKept_logRequest s _) (coreKept_writeBlock _ _ _)
  · rw [← hreq] at he
    rw [transfer_of_hostErr (hop ▸ hu) hb he]
    exact failsWith_failUnit_logRequest hlt

/-! ### Output -/

theorem readBlock_getElem? {a n k : Nat} (hk : k < n) : (readBlock s a n)[k]? = some (s.wordAt (a + k)) := by
  rw [readBlock, List.getElem?_map, List.getElem?_range hk]
  rfl

/-- Words written out as codes: five a word. -/
theorem flatMap_wordCodes_length (ws : List Word) : (ws.flatMap wordCodes).length = 5 * ws.length := by
  induction ws with
  | nil => rfl
  | cons w ws ih => rw [List.flatMap_cons, List.length_append, ih, List.length_cons, Nat.mul_succ, Nat.add_comm]; rfl

theorem wordCodes_getElem? (w : Word) {j : Nat} (hj : j < 5) : (wordCodes w)[j]? = some (w.byte (j + 1)) := by
  match j, hj with
  | 0, _ | 1, _ | 2, _ | 3, _ | 4, _ => rfl

/-- Code `j` of word `k`. -/
theorem flatMap_wordCodes_getElem? {ws : List Word} {w : Word} {k j : Nat} (hk : ws[k]? = some w) (hj : j < 5) :
    (ws.flatMap wordCodes)[5 * k + j]? = some (w.byte (j + 1)) := by
  induction ws generalizing k with
  | nil => cases hk
  | cons v ws ih =>
    have hlen : (wordCodes v).length = 5 := rfl
    rw [List.flatMap_cons]
    cases k with
    | zero =>
      cases hk
      rw [List.getElem?_append_left (by omega), Nat.mul_zero, Nat.zero_add]
      exact wordCodes_getElem? _ hj
    | succ k =>
      have hindex : 5 * (k + 1) + j - 5 = 5 * k + j := by omega
      rw [List.getElem?_append_right (by omega), hlen, hindex]
      exact ih hk

/-- Settles O57: the request is the block as memory holds it. -/
theorem outputTransfersSendTheBlock : Obligations.OutputTransfersSendTheBlock := by
  intro pc0 u s hlen hu hop h0 h3999
  have hlt : u < s.devs.length := hlen ▸ lt_of_implementedUnit (implementedUnit_of_unitTakes hu)
  have hb : blockInside s u := ⟨h0, h3999⟩
  have hreq := transferRequest_output hop hu
  refine ⟨fun codes hcodes => ?_, fun v ws hws => ?_, fun hok => ?_, fun text he => ?_⟩
  · rw [hreq] at hcodes
    split at hcodes
    · cases hcodes
      refine ⟨?_, fun k hk j hj => flatMap_wordCodes_getElem? (readBlock_getElem? hk) hj⟩
      rw [flatMap_wordCodes_length, readBlock, List.length_map, List.length_range]
      rfl
    · cases hcodes
  · rw [hreq] at hws
    split at hws
    · cases hws
    · cases hws
      exact ⟨rfl, by rw [readBlock, List.length_map, List.length_range], fun k hk => readBlock_getElem? hk⟩
  · rw [transfer_output hop hu hb, askHost_eq_ok.2 ⟨hok, rfl⟩]
    exact ⟨_, rfl, rfl, rfl, fun _ => rfl, rfl, rfl, coreKept_logRequest s _⟩
  · rw [transfer_of_hostErr (hop ▸ hu) hb he]
    exact failsWith_failUnit_logRequest hlt

end Sys2Proof.Machine
end

section
/-! PROOF. IN, OUT and IOC, which first force the transfer of a unit that still waits (49_io.md R493 and R506). -/

namespace Sys2Proof.Machine

variable {pc0 : Int} {u : Nat} {s s₁ t h : State} {m : Addr} {f : Byte} {ma : Word}

/-! ### The forced transfer -/

theorem DevRec.waiting_iff (d : DevRec) : d.waiting = true ↔ d.total / 2 < d.timer := by
  have hdone : d.done = false ↔ d.total / 2 < d.timer := decide_eq_false_iff_not.trans Nat.not_le
  rw [DevRec.waiting, Bool.and_eq_true, decide_eq_true_eq, Bool.not_eq_true', hdone]
  omega

theorem forceWaiting_of_waiting (h : (s.dev u).total / 2 < (s.dev u).timer) :
    forceWaiting pc0 u s = transfer pc0 u s := if_pos ((DevRec.waiting_iff _).2 h)

theorem forceWaiting_of_not_waiting (h : (s.dev u).timer ≤ (s.dev u).total / 2) : forceWaiting pc0 u s = .ok s :=
  if_neg (mt (DevRec.waiting_iff _).1 (Nat.not_lt.2 h))

/-! ### The unit checks pass -/

theorem allows_of_unitTakes {op : IoOp} (hu : unitTakes op u) : (unitKind u).allows op = true := by
  cases op
  all_goals
    rcases hu with hu | rfl
    · rw [unitKind_of_tape hu]
      rfl
    · rfl

theorem unitExists_of_implementedUnit (hu : implementedUnit f.toNat) : unitExists f = true :=
  unitExists_iff.2 (Nat.le_of_lt_succ (lt_of_implementedUnit hu))

theorem unitTransfers_of_unitTakes {op : IoOp} (hu : unitTakes op f.toNat) : unitTransfers op f = true := by
  rw [unitTransfers, unitExists_of_implementedUnit (implementedUnit_of_unitTakes hu), allows_of_unitTakes hu]
  rfl

theorem unitControls_of_implementedUnit (hu : implementedUnit f.toNat) : unitControls f = true := by
  rw [unitControls, unitExists_of_implementedUnit hu, Bool.true_and, decide_eq_true_eq]
  rcases hu with h | h | h
  · rw [unitKind_of_tape h]
    decide
  · rw [h]
    decide
  · rw [h]
    decide

/-! ### Frames -/

/-- A state whose core is that of `s`, moved to the next instruction. -/
theorem frame_of_coreKept_seq (hcore : coreKept s t) (hrun : t.run = s.run) :
    regsKept [] s t.seq ∧ t.seq.pc = s.pc + 1 ∧ memKept t t.seq ∧ flagsKept s t.seq ∧ controlKept s t.seq := by
  obtain ⟨hregs, hpc, hflags, hcount, htime, hparams⟩ := hcore
  exact ⟨hregs, congrArg (· + 1) hpc, fun _ => rfl, hflags, hrun, hcount, htime, hparams⟩

/-- IN and OUT after the forced transfer: the unit is armed, and the rest is as the transfer left it. -/
theorem startIo_arms {op : IoOp} (hm : effAddr m s = .ok ma) (hu : unitTakes op f.toNat) (hs : s.devs.length = 21)
    (hw : forceWaiting s.pc f.toNat s = .ok s₁) :
    ∃ t, startIo op m f s = .ok t ∧
      t.dev f.toNat = { addr := ma.val, field := f, op := op, total := devTime f.toNat, timer := devTime f.toNat,
                        lastError := (s.dev f.toNat).lastError } ∧
      (∀ v, v ≠ f.toNat → t.dev v = s.dev v) ∧ t.hostIn = s₁.hostIn ∧ t.hostLog = s₁.hostLog ∧
      regsKept [] s t ∧ t.pc = s.pc + 1 ∧ memKept s₁ t ∧ flagsKept s t ∧ controlKept s t := by
  obtain ⟨hcore, hdevs, hrun, -⟩ := forceWaiting_ok hw
  have hlt : f.toNat < s₁.devs.length := by
    rw [hdevs, hs]
    exact lt_of_implementedUnit (implementedUnit_of_unitTakes hu)
  have hdev (v : Nat) : s₁.dev v = s.dev v := State.dev_congr hdevs v
  refine ⟨_, startIo_ok hm (unitTransfers_of_unitTakes hu) hw, ?_, fun v hv => ?_, rfl, rfl,
    frame_of_coreKept_seq (coreKept_trans hcore (coreKept_setDev s₁ _ _)) hrun⟩
  · rw [← hdev]
    exact State.setDev_dev_self s₁ _ hlt
  · exact (State.setDev_dev_of_ne s₁ _ hv).trans (hdev v)

theorem exec_of_mem_startIoForms {e : IoOp × (Addr → Byte → Instr)} (he : e ∈ startIoForms) :
    exec (e.2 m f) s = outcome (startIo e.1 m f s) ∧ armedUnit (e.2 m f) = some f.toNat := by
  simp only [startIoForms, List.mem_cons, List.not_mem_nil, or_false] at he
  rcases he with rfl | rfl
  · exact ⟨rfl, rfl⟩
  · exact ⟨rfl, rfl⟩

/-- Settles O46: an idle or draining unit is armed at once, a waiting one after its transfer. -/
theorem armWithForcedCompletion : Obligations.ArmWithForcedCompletion := by
  intro e he m f s ma hm hu hs
  obtain ⟨hexec, harmed⟩ := exec_of_mem_startIoForms (m := m) (f := f) (s := s) he
  refine ⟨harmed, fun hdone => ?_, fun hwaits => ⟨fun s₁ hs₁ => ?_, fun h hh => ?_⟩⟩
  · obtain ⟨t, ht, hframe⟩ := startIo_arms hm hu hs (forceWaiting_of_not_waiting hdone)
    exact ⟨t, exec_eq_next hexec ht, hframe⟩
  · obtain ⟨t, ht, hframe⟩ := startIo_arms hm hu hs ((forceWaiting_of_waiting hwaits).trans hs₁)
    exact ⟨t, exec_eq_next hexec ht, hframe⟩
  · have herror := startIo_error hm (unitTransfers_of_unitTakes hu) ((forceWaiting_of_waiting hwaits).trans hh)
    obtain ⟨text, hcore, -, -, hdev, -⟩ := transfer_halts hh
    obtain ⟨-, hpc, -⟩ := hcore
    have hlt : f.toNat < s.devs.length := hs ▸ lt_of_implementedUnit (implementedUnit_of_unitTakes hu)
    refine ⟨hexec.trans (congrArg outcome herror), hpc, ?_⟩
    rw [hdev hlt]

/-! ### IOC -/

theorem exec_ioc (m : Addr) (f : Byte) (s : State) : exec (.ioc m f) s = outcome (controlUnit m f s) := rfl

/-- Settles O47: a failed forced transfer ends it; otherwise the host is asked with the unit idle. -/
theorem iocForcesThenAsksTheHost : Obligations.IocForcesThenAsksTheHost := by
  intro m f s s₁ ma hm hu hs
  have hcontrols := unitControls_of_implementedUnit hu
  refine ⟨fun h hwaits hh => ?_, fun hs₁ => ?_⟩
  · have herror := controlUnit_error hm hcontrols ((forceWaiting_of_waiting hwaits).trans hh)
    exact congrArg outcome herror
  · have hw : forceWaiting s.pc f.toNat s = .ok s₁ := by
      split at hs₁
      · rename_i hwaits
        exact (forceWaiting_of_waiting hwaits).trans hs₁
      · rename_i hdone
        exact hs₁.symm ▸ forceWaiting_of_not_waiting (Nat.not_lt.1 hdone)
    have hcontrol := controlUnit_ok hm hcontrols hw
    obtain ⟨hcore, hdevs, hrun, -⟩ := forceWaiting_ok hw
    have hlt : f.toNat < s₁.devs.length := by
      rw [hdevs, hs]
      exact lt_of_implementedUnit hu
    have hdev (v : Nat) : s₁.dev v = s.dev v := State.dev_congr hdevs v
    have hidle := State.setDev_dev_self s₁ { s₁.dev f.toNat with timer := 0 } hlt
    have hcore' := coreKept_trans hcore
      (coreKept_setDev s₁ f.toNat { s₁.dev f.toNat with timer := 0 })
    refine ⟨fun hok => ?_, fun text herr => ?_⟩
    · rw [askHost_eq_ok.2 ⟨hok, rfl⟩, Phase.ok_bind] at hcontrol
      refine ⟨_, exec_eq_next (exec_ioc m f s) hcontrol, ?_, fun v hv => ?_, rfl, rfl,
        frame_of_coreKept_seq (coreKept_trans hcore' (coreKept_logRequest _ _)) hrun⟩
      · rw [← hdev]
        exact hidle
      · exact (State.setDev_dev_of_ne s₁ _ hv).trans (hdev v)
    · rw [askHost_eq_error.2 ⟨text, herr, rfl⟩, Phase.error_bind] at hcontrol
      refine ⟨_, (exec_ioc m f s).trans (congrArg outcome hcontrol), rfl, ?_, ?_, fun _ => rfl⟩
      · rw [← hdev]
        refine (State.setDev_dev_self _ _ ?_).trans ?_
        · exact (State.setDev_length s₁ _ _).symm ▸ hlt
        · rw [hidle]
      · obtain ⟨-, hpc, -⟩ := hcore
        exact hpc

end Sys2Proof.Machine
end

section
/-! PROOF. A pending unit goes idle: a step that runs on and does not arm the unit lowers its timer (49_io.md R494). -/

namespace Sys2Proof.Machine

variable {s t v : State} {i : Instr} {u : Nat}

/-! ### Phase EXECUTE does not raise the timer of a unit it does not arm -/

/-- The unit that a shape arms. -/
def Shape.armed : Shape → Option Nat
  | .startIo _ f => some f.toNat
  | _ => none

theorem armedUnit_eq_shape_armed (i : Instr) : armedUnit i = (Instr.shape i).armed := by
  cases i <;> rfl

/-- The opcodes of IN and OUT belong to instructions that arm a unit. -/
theorem shape_of_startIo_opByte (hlow : 36 ≤ opByte i) (hhigh : opByte i ≤ 37) :
    ∃ op f, Instr.shape i = .startIo op f := by
  have hbytes := shape_hasBytes i
  cases hsh : Instr.shape i with
  | startIo op f => exact ⟨op, f, rfl⟩
  | load r | loadNeg r | inc r | dec r | ent r | enn r | compare r | jumpReg r =>
    rw [hsh] at hbytes
    cases r <;> simp only [Shape.hasBytes, regIndex] at hbytes <;> omega
  | _ =>
    rw [hsh] at hbytes
    simp only [Shape.hasBytes] at hbytes
    omega

/-- IN and OUT change no record but that of the unit they arm. -/
theorem startIo_dev_of_ne {op : IoOp} {m : Addr} {f : Byte} (h : startIo op m f s = .ok t) (hu : u ≠ f.toNat) :
    t.dev u = s.dev u := by
  simp only [startIo, arm, Phase.bind_eq_ok, Phase.pure_eq, Except.ok.injEq, unitOf_eq_ok] at h
  obtain ⟨ma, -, k, ⟨-, rfl⟩, -, ⟨t₂, hw, rfl⟩, rfl⟩ := h
  obtain ⟨-, hdevs, -⟩ := forceWaiting_ok hw
  exact (State.setDev_dev_of_ne t₂ _ hu).trans (State.dev_congr hdevs u)

/-- An instruction that completes leaves a running machine running, so its phases answered without a halt. -/
theorem run_of_exec (hs : s.run = .running) (hx : exec i s = .next t)
    (hends : ExecEnds (opByte i) (fByte i) i.addr s t) : (Instr.shape i).run i.addr s = .ok t := by
  rw [exec_eq_shape, outcome_eq_next, settle_eq] at hx
  refine hx.resolve_right fun herror => ?_
  obtain ⟨reason, info, hrun⟩ := execHalts_halted (shape_halts _ _ _ _ _ _ (shape_hasBytes i) herror)
  rw [hends.run, hs] at hrun
  cases hrun

theorem exec_timer_le (hs : s.run = .running) (hx : exec i s = .next t)
    (hends : ExecEnds (opByte i) (fByte i) i.addr s t) (harm : armedUnit i ≠ some u) :
    (t.dev u).timer ≤ (s.dev u).timer := by
  rcases hends.devs with hdevs | ⟨hlow, hhigh, -⟩ | ⟨-, k, -, hdevs⟩
  · rw [State.dev_congr hdevs]
  · obtain ⟨op, f, hsh⟩ := shape_of_startIo_opByte hlow hhigh
    have hrun := run_of_exec hs hx hends
    rw [armedUnit_eq_shape_armed, hsh] at harm
    rw [hsh] at hrun
    rw [startIo_dev_of_ne hrun fun hu => harm (congrArg some hu.symm)]
  · have hdev : t.dev u = (s.setDev k { s.dev k with timer := 0 }).dev u := State.dev_congr hdevs u
    rw [hdev]
    by_cases hk : u = k
    · subst hk
      by_cases hlt : u < s.devs.length
      · rw [State.setDev_dev_self s _ hlt]
        exact Nat.zero_le _
      · have hsame : s.devs.set u { s.dev u with timer := 0 } = s.devs :=
          List.set_eq_of_length_le (Nat.le_of_not_lt hlt)
        exact le_of_eq (congrArg DevRec.timer (State.dev_congr (s := s) hsame u))
    · rw [State.setDev_dev_of_ne s _ hk]

/-! ### The step and the run -/

theorem armsUnit_of_armedUnit (hd : decode (s.wordAt s.pc.toNat) = .ok i) (h : armedUnit i = some u) :
    armsUnit s u := by
  unfold armedUnit at h
  split at h
  · exact ⟨_, _, Option.some.inj h, .inl hd⟩
  · exact ⟨_, _, Option.some.inj h, .inr hd⟩
  · cases h

/-- A unit's timer falls in the phases after EXECUTE if they leave the machine running and did not arm it. -/
theorem Finishes.timer_lt (hfin : Finishes s i t v) (hv : v.run = .running) (ht : t.devs.length = 21) (hu : u ≤ 20)
    (harm : armedUnit i ≠ some u) : v.devs.length = 21 ∧ (v.dev u).timer ≤ (t.dev u).timer - 1 := by
  rcases hfin with herror | ⟨t₁, -, herror⟩ | ⟨t₁, hupdate, -, rfl⟩
  · obtain ⟨-, -, -, k, text, hrun⟩ := updateUnits_error _ herror
    rw [hrun] at hv
    cases hv
  · obtain ⟨_, _, _, -, -, -, rfl⟩ := checkRegs_eq_error herror
    cases hv
  · obtain ⟨hlen, hbelow, -⟩ := updateUnits_range_dev ht (le_refl 21) hupdate
    obtain ⟨ρ, hstop⟩ := stopPhase_eq_setRun s.pc i (record s.pc (cost s i) t₁)
    have hdevs : (stopPhase s.pc i (record s.pc (cost s i) t₁)).devs = t₁.devs := by
      rw [hstop]
      rfl
    have hcost := cost_pos s i
    rw [State.dev_congr hdevs, hdevs, hbelow u (Nat.lt_succ_of_le hu), if_neg harm]
    exact ⟨hlen, Nat.sub_le_sub_left hcost _⟩

theorem step_timer_lt (hstep : step s = .next v) (hv : v.run = .running) (hs : s.devs.length = 21) (hu : u ≤ 20)
    (harm : ¬ armsUnit s u) : v.devs.length = 21 ∧ (v.dev u).timer ≤ (s.dev u).timer - 1 := by
  rcases step_cases hstep with ⟨-, rfl⟩ | ⟨-, rfl, -⟩ | ⟨-, i, hd, ⟨hhalts, -⟩ | ⟨t, hends, hx, hfin⟩⟩
  · cases hv
  · cases hv
  · obtain ⟨reason, info, hrun⟩ := execHalts_halted hhalts
    rw [hrun] at hv
    cases hv
  · have harm' : armedUnit i ≠ some u := mt (armsUnit_of_armedUnit hd) harm
    obtain ⟨hlen, hfall⟩ := hfin.timer_lt hv (hends.devs_length.trans hs) hu harm'
    have hle := exec_timer_le (running_of_step hstep) hx hends harm'
    exact ⟨hlen, hfall.trans (Nat.sub_le_sub_right hle 1)⟩

/-- Settles O58, by induction on the number of steps. -/
theorem pendingUnitGoesIdle : Obligations.PendingUnitGoesIdle := by
  intro σ u n hu hlen hsteps
  suffices h : (σ n).devs.length = 21 ∧ ((σ n).dev u).timer ≤ ((σ 0).dev u).timer - n from h.2
  induction n with
  | zero => exact ⟨hlen, le_rfl⟩
  | succ n ih =>
    obtain ⟨hlen', hfall⟩ := ih fun k hk => hsteps k (Nat.lt_succ_of_lt hk)
    obtain ⟨hstep, hrun, harm⟩ := hsteps n (Nat.lt_succ_self n)
    obtain ⟨hlen'', hlt⟩ := step_timer_lt hstep hrun hlen' hu harm
    exact ⟨hlen'', by omega⟩

end Sys2Proof.Machine
end

section
/-! PROOF. NUM, CHAR and NOP (44_special.md), and the shift count (45_shift_move.md R347). -/

namespace Sys2Proof.Machine

variable {s t : State} {m : Addr} {f : Byte} {ma : Word}

/-! ### NOP -/

/-- Settles O33: the operation is `seq` once M is formed. -/
theorem nopOnlyAdvances : Obligations.NopOnlyAdvances := by
  intro m f s hi
  obtain ⟨ma, hm⟩ := effAddr_of_indexOk hi s
  exact ⟨s.seq, congrArg outcome (noOperation_ok hm), rfl, fun _ _ => rfl, fun _ => rfl, ⟨rfl, rfl⟩, ⟨rfl, rfl, rfl⟩,
    rfl, rfl, rfl, rfl⟩

/-! ### NUM -/

theorem wordToDecimal_eq (a x : Word) :
    wordToDecimal a x =
      10 ^ 9 * (a.b1.toNat % 10) + 10 ^ 8 * (a.b2.toNat % 10) + 10 ^ 7 * (a.b3.toNat % 10) +
        10 ^ 6 * (a.b4.toNat % 10) + 10 ^ 5 * (a.b5.toNat % 10) + 10 ^ 4 * (x.b1.toNat % 10) +
        10 ^ 3 * (x.b2.toNat % 10) + 10 ^ 2 * (x.b3.toNat % 10) + 10 * (x.b4.toNat % 10) + x.b5.toNat % 10 := by
  simp only [wordToDecimal, digitsValue, pairBytes, List.foldl_cons, List.foldl_nil]
  ring

/-- Settles O31: the fold over the ten bytes, written out. -/
theorem numReadsTenDigits : Obligations.NumReadsTenDigits := by
  intro m s hi d v
  obtain ⟨ma, hm⟩ := effAddr_of_indexOk hi s
  have hv : wordToDecimal s.a s.x = v := wordToDecimal_eq s.a s.x
  have hrun := numToA_ok hm
  rw [hv] at hrun
  refine ⟨_, congrArg outcome hrun, rfl, ?_, ?_, frame_of_setReg_raiseOvf_seq s .A _ _⟩
  · exact Word.mag_ofMag _ (Nat.mod_lt v (by decide))
  · exact (Iff.of_eq (Bool.or_eq_true _ _)).trans (or_congr_right decide_eq_true_iff)

/-! ### CHAR -/

theorem digitCode_toNat (n k : Nat) : (digitCode n k).toNat = 30 + n / 10 ^ (10 - k) % 10 := by
  have hdigit : n / 10 ^ (10 - k) % 10 < 10 := Nat.mod_lt _ (by decide)
  rw [digitCode, BitVec.toNat_ofNat, decimalDigit]
  omega

/-- The code stands for its digit: 30 is 0 mod 10. -/
theorem digitCode_mod_ten (n k : Nat) : (digitCode n k).toNat % 10 = n / 10 ^ (10 - k) % 10 := by
  rw [digitCode_toNat]
  omega

theorem decimalToChars_byte (sa sx : Sign) (n : Nat) {k : Nat} (h1 : 1 ≤ k) (h5 : k ≤ 5) :
    (decimalToChars sa sx n).1.byte k = digitCode n k ∧
      (decimalToChars sa sx n).2.byte k = digitCode n (k + 5) := by
  interval_cases k <;> exact ⟨rfl, rfl⟩

/-- The first `k` codes read as the digits of `n` down to the place of the `k`-th. -/
theorem digitsValue_digitCodes {n : Nat} (hn : n < 10 ^ 10) {k : Nat} (hk : k ≤ 10) :
    digitsValue ((List.range k).map fun j => digitCode n (j + 1)) = n / 10 ^ (10 - k) := by
  induction k with
  | zero => exact (Nat.div_eq_of_lt hn).symm
  | succ k ih =>
    have hplace : 10 ^ (10 - k) = 10 ^ (10 - (k + 1)) * 10 := by
      rw [← Nat.pow_succ]
      congr 1
      omega
    have hfirst : digitsValue ((List.range k).map fun j => digitCode n (j + 1)) = n / 10 ^ (10 - (k + 1)) / 10 := by
      rw [ih (by omega), Nat.div_div_eq_div_mul, hplace]
    rw [digitsValue] at hfirst ⊢
    rw [List.range_succ, List.map_append, List.foldl_append, hfirst]
    exact (congrArg _ (digitCode_mod_ten n (k + 1))).trans (Nat.div_add_mod _ 10)

/-- The ten codes read back as the number they were written from. -/
theorem wordToDecimal_decimalToChars (sa sx : Sign) {n : Nat} (hn : n < 10 ^ 10) :
    wordToDecimal (decimalToChars sa sx n).1 (decimalToChars sa sx n).2 = n :=
  (digitsValue_digitCodes hn le_rfl).trans (Nat.div_one n)

/-- Settles O32: each code holds its digit, and ten digits are enough for a magnitude. -/
theorem charWritesTenDigits : Obligations.CharWritesTenDigits := by
  intro m s hi
  obtain ⟨ma, hm⟩ := effAddr_of_indexOk hi s
  refine ⟨_, congrArg outcome (charFromA_ok hm), rfl, rfl, fun k h1 h5 => ?_, ?_, frame_of_setReg_setReg_seq rfl⟩
  · obtain ⟨ha, hx⟩ := decimalToChars_byte s.a.sign s.x.sign s.a.mag h1 h5
    refine ⟨(congrArg BitVec.toNat ha).trans (digitCode_toNat _ k), (congrArg BitVec.toNat hx).trans ?_⟩
    rw [digitCode_toNat, show 10 - (k + 5) = 5 - k by omega]
  · exact wordToDecimal_decimalToChars _ _ ((Word.mag_lt s.a).trans (by decide))

/-! ### The shift count -/

theorem shiftBits_of_count (hm : effAddr m s = .ok ma) (hsign : ma.mag = 0 ∨ ma.sign = .plus) :
    shiftBits m s = .ok (ma.mag * s.params.shiftUnit.bits) := shiftBits_eq_ok.2 ⟨ma, hm, hsign, rfl⟩

theorem shiftBits_of_negative (hm : effAddr m s = .ok ma) (hsign : ma.sign = .minus) (hpos : 0 < ma.mag) :
    shiftBits m s = .error (s.haltedFor .invalidOpcodeOrVariant) := by
  rw [shiftBits, hm, Phase.ok_bind, shiftCount_eq_error.2 ⟨⟨hpos.ne', hsign⟩, rfl⟩]
  rfl

/-- A shift whose distance cannot be formed halts as the distance does. -/
theorem exec_of_shiftBits_eq_error {e : Addr → Instr} {h : State} (he : e ∈ shiftForms)
    (hbits : shiftBits m s = .error h) : exec (e m) s = .next h := by
  simp only [shiftForms, List.mem_cons, List.not_mem_nil, or_false] at he
  rcases he with rfl | rfl | rfl | rfl | rfl | rfl
  · exact congrArg outcome (shiftA_error hbits)
  · exact congrArg outcome (shiftA_error hbits)
  · exact congrArg outcome (shiftAX_error hbits)
  · exact congrArg outcome (shiftAX_error hbits)
  · exact congrArg outcome (shiftAX_error hbits)
  · exact congrArg outcome (shiftAX_error hbits)

theorem mul_bits_eq (n : Nat) (v : ShiftUnit) : n * v.bits = if v = .byte then n * 6 else n := by
  cases v
  · rfl
  · exact Nat.mul_one n

/-- Settles O36: the count by the sign of M, the distance by the unit. -/
theorem shiftCount_spec : Obligations.ShiftCount := by
  intro m s ma hm
  refine ⟨fun h0 => shiftCount_eq_ok.2 ⟨.inl h0, h0⟩, fun hplus => shiftCount_eq_ok.2 ⟨.inr hplus, rfl⟩,
    fun hminus hpos e he => exec_of_shiftBits_eq_error he (shiftBits_of_negative hm hminus hpos), fun n hn => ?_⟩
  obtain ⟨hsign, rfl⟩ := shiftCount_eq_ok.1 hn
  rw [shiftBits_of_count hm hsign, mul_bits_eq]

end Sys2Proof.Machine
end

section
/-! PROOF. The six shifts (45_shift_move.md R340 to R345, 40_alu.md R159 to R161): what they do to the magnitude, and, with
the unit of a byte, to the bytes. -/

namespace Sys2Proof.Machine

variable {s t : State} {m : Addr} {ma : Word}

/-! ### Bytes of a number -/

/-- The byte of `p` at place `j`, counted from the lowest. -/
def byteAt (p j : Nat) : Nat := p / 64 ^ j % 64

theorem byteAt_of_lt {p j N : Nat} (hp : p < 64 ^ N) (hj : N ≤ j) : byteAt p j = 0 := by
  rw [byteAt, Nat.div_eq_of_lt (hp.trans_le (Nat.pow_le_pow_right (by decide) hj))]

theorem byteAt_div_pow (p n j : Nat) : byteAt (p / 64 ^ n) j = byteAt p (n + j) := by
  rw [byteAt, byteAt, Nat.div_div_eq_div_mul, ← Nat.pow_add]

theorem byteAt_mod_pow (p : Nat) {j N : Nat} (hj : j < N) : byteAt (p % 64 ^ N) j = byteAt p j := by
  have hN : 64 ^ N = 64 ^ j * 64 ^ (N - j) := by rw [← Nat.pow_add, Nat.add_sub_cancel' hj.le]
  have hdvd : 64 ∣ 64 ^ (N - j) := dvd_pow_self 64 (Nat.sub_pos_of_lt hj).ne'
  rw [byteAt, byteAt, hN, Nat.mod_mul_right_div_self, Nat.mod_mod_of_dvd _ hdvd]

/-- A number written above `n` places: the places below hold the rest. -/
theorem byteAt_mul_pow_add (x : Nat) {y n j : Nat} (hy : y < 64 ^ n) :
    byteAt (64 ^ n * x + y) j = if n ≤ j then byteAt x (j - n) else byteAt y j := by
  split
  · rename_i hj
    have hx : (64 ^ n * x + y) / 64 ^ n = x := by
      rw [Nat.mul_add_div (Nat.pow_pos (by decide)), Nat.div_eq_of_lt hy, Nat.add_zero]
    rw [← hx, byteAt_div_pow, hx, Nat.add_sub_cancel' hj]
  · rename_i hj
    rw [← byteAt_mod_pow (64 ^ n * x + y) (Nat.lt_of_not_le hj), Nat.mul_add_mod, Nat.mod_eq_of_lt hy]

theorem byteAt_mul_pow (x n j : Nat) : byteAt (64 ^ n * x) j = if n ≤ j then byteAt x (j - n) else 0 := by
  have h := byteAt_mul_pow_add x (y := 0) (n := n) (j := j) (Nat.pow_pos (by decide))
  rw [Nat.add_zero] at h
  rw [h, byteAt, byteAt, Nat.zero_div]

/-! ### Bytes of a word and of a pair -/

theorem Word.byteAt_mag (w : Word) {k : Nat} (h1 : 1 ≤ k) (h5 : k ≤ 5) : byteAt w.mag (5 - k) = (w.byte k).toNat := by
  have hplace : 64 ^ (5 - k) = 2 ^ (30 - 6 * k) := by
    rw [show 30 - 6 * k = 6 * (5 - k) by omega, Nat.pow_mul]
  rw [byteAt, hplace, Word.mag_div_mod w h1 h5]

theorem Word.mag_lt_pow (w : Word) : w.mag < 64 ^ 5 := Word.mag_lt w

theorem pairMag_lt (a x : Word) : pairMag a x < 64 ^ 10 := by
  have ha := Word.mag_lt a
  have hx := Word.mag_lt x
  simp only [pairMag, magLimit] at *
  omega

theorem pairBytes_getD (a x : Word) {k : Nat} (hk : k < 10) :
    (pairBytes a x).getD k 0 = if k < 5 then a.byte (k + 1) else x.byte (k - 4) := by
  interval_cases k <;> rfl

theorem pairBytes_getD_toNat (a x : Word) {k : Nat} (hk : k < 10) :
    ((pairBytes a x).getD k 0).toNat = byteAt (pairMag a x) (9 - k) := by
  have hpair : pairMag a x = 64 ^ 5 * a.mag + x.mag := rfl
  rw [pairBytes_getD a x hk, hpair, byteAt_mul_pow_add _ (Word.mag_lt_pow x)]
  by_cases h5 : k < 5
  · rw [if_pos h5, if_pos (by omega), ← Word.byteAt_mag a (by omega) (by omega)]
    congr 1
    omega
  · rw [if_neg h5, if_neg (by omega), ← Word.byteAt_mag x (by omega) (by omega)]
    congr 1
    omega

theorem pairMag_ofPairMag (a x : Word) {p : Nat} (hp : p < 2 ^ 60) :
    pairMag (ofPairMag a x p).1 (ofPairMag a x p).2 = p := by
  have hhigh : p / magLimit < magLimit := Nat.div_lt_of_lt_mul hp
  have hlow : p % magLimit < magLimit := Nat.mod_lt _ (by decide)
  rw [pairMag, ofPairMag, Word.mag_ofMag _ hhigh, Word.mag_ofMag _ hlow, Nat.div_add_mod]

/-! ### SLA and SRA -/

theorem shl1_mag (w : Word) (d : Nat) : (shl1 w d).mag = 2 ^ d * w.mag % magLimit := by
  rw [shl1]
  split
  · rename_i hd
    have hdvd : magLimit ∣ 2 ^ d := pow_dvd_pow 2 hd
    rw [Word.mag_ofMag_zero, Nat.mod_eq_zero_of_dvd (hdvd.mul_right _)]
  · exact Word.mag_ofMag _ (Nat.mod_lt (2 ^ d * w.mag) (by decide))

theorem shr1_mag (w : Word) (d : Nat) : (shr1 w d).mag = w.mag / 2 ^ d := by
  rw [shr1]
  split
  · rename_i hd
    have hlt : w.mag < 2 ^ d := (Word.mag_lt w).trans_le (Nat.pow_le_pow_right Nat.two_pos hd)
    rw [Word.mag_ofMag_zero, Nat.div_eq_of_lt hlt]
  · rw [Word.mag_ofMag _ ((Nat.div_le_self _ _).trans_lt (Word.mag_lt w))]

theorem shl1_byte (w : Word) (n : Nat) {k : Nat} (h1 : 1 ≤ k) (h5 : k ≤ 5) :
    (shl1 w (6 * n)).byte k = if k + n ≤ 5 then w.byte (k + n) else 0 := by
  apply BitVec.eq_of_toNat_eq
  have hlimit : magLimit = 64 ^ 5 := rfl
  rw [← Word.byteAt_mag _ h1 h5, shl1_mag, Nat.pow_mul, hlimit, byteAt_mod_pow _ (by omega), byteAt_mul_pow]
  by_cases hk : k + n ≤ 5
  · rw [if_pos hk, if_pos (by omega), ← Word.byteAt_mag w (by omega) hk, Nat.sub_sub]
  · rw [if_neg hk, if_neg (by omega)]
    rfl

theorem shr1_byte (w : Word) (n : Nat) {k : Nat} (h1 : 1 ≤ k) (h5 : k ≤ 5) :
    (shr1 w (6 * n)).byte k = if n < k then w.byte (k - n) else 0 := by
  apply BitVec.eq_of_toNat_eq
  rw [← Word.byteAt_mag _ h1 h5, shr1_mag, Nat.pow_mul, byteAt_div_pow]
  by_cases hk : n < k
  · rw [if_pos hk, ← Word.byteAt_mag w (by omega) (by omega), show n + (5 - k) = 5 - (k - n) by omega]
  · rw [if_neg hk, byteAt_of_lt (Word.mag_lt_pow w) (by omega)]
    rfl

/-- The distance of a shift: `ma.mag` units. -/
theorem shiftBits_of_count_comm (hm : effAddr m s = .ok ma) (hsign : ma.mag = 0 ∨ ma.sign = .plus) :
    shiftBits m s = .ok (s.params.shiftUnit.bits * ma.mag) := by
  rw [shiftBits_of_count hm hsign, Nat.mul_comm]

/-- Settles O34: the magnitude of the shifted A, and its bytes. -/
theorem singleShiftsMoveUnits : Obligations.SingleShiftsMoveUnits := by
  intro m s ma hm hsign d
  have hd : shiftBits m s = .ok d := shiftBits_of_count_comm hm hsign
  have hbyte (h : s.params.shiftUnit = .byte) : d = 6 * ma.mag := by
    show s.params.shiftUnit.bits * ma.mag = _
    rw [h]
    rfl
  refine ⟨⟨_, congrArg outcome (shiftA_ok (sh := shl1) hd), rfl, shl1_mag s.a d, fun h k h1 h5 => ?_,
      frame_of_setReg_seq s .A _⟩,
    ⟨_, congrArg outcome (shiftA_ok (sh := shr1) hd), rfl, shr1_mag s.a d, fun h k h1 h5 => ?_,
      frame_of_setReg_seq s .A _⟩⟩
  · rw [hbyte h]
    exact shl1_byte s.a ma.mag h1 h5
  · rw [hbyte h]
    exact shr1_byte s.a ma.mag h1 h5

/-! ### Rotation -/

/-- `p`, of `N` digits to the base `b`, rotated left by `σ` digits. -/
def rotated (b N p σ : Nat) : Nat := b ^ σ * p % b ^ N + p / b ^ (N - σ)

/-- The low digits go up and the high digits come in below them. -/
theorem rotated_eq (b p : Nat) {N σ : Nat} (hσ : σ ≤ N) :
    rotated b N p σ = b ^ σ * (p % b ^ (N - σ)) + p / b ^ (N - σ) := by
  have hN : b ^ N = b ^ σ * b ^ (N - σ) := by rw [← Nat.pow_add, Nat.add_sub_cancel' hσ]
  rw [rotated, hN, Nat.mul_mod_mul_left]

theorem high_digits_lt {b p N σ : Nat} (hσ : σ ≤ N) (hp : p < b ^ N) : p / b ^ (N - σ) < b ^ σ := by
  apply Nat.div_lt_of_lt_mul
  rwa [← Nat.pow_add, Nat.sub_add_cancel hσ]

theorem rotated_lt {b p N σ : Nat} (hb : 0 < b) (hσ : σ ≤ N) (hp : p < b ^ N) : rotated b N p σ < b ^ N := by
  have hhigh := high_digits_lt hσ hp
  have hlow : p % b ^ (N - σ) < b ^ (N - σ) := Nat.mod_lt _ (Nat.pow_pos hb)
  calc rotated b N p σ = b ^ σ * (p % b ^ (N - σ)) + p / b ^ (N - σ) := rotated_eq b p hσ
    _ < b ^ σ * (p % b ^ (N - σ)) + b ^ σ := Nat.add_lt_add_left hhigh _
    _ = b ^ σ * (p % b ^ (N - σ) + 1) := rfl
    _ ≤ b ^ σ * b ^ (N - σ) := Nat.mul_le_mul_left _ hlow
    _ = b ^ N := by rw [← Nat.pow_add, Nat.add_sub_cancel' hσ]

/-- Ten bytes rotated by `σ` bytes are sixty bits rotated by `6 * σ` bits. -/
theorem rotated_bits_eq_bytes (p : Nat) {σ : Nat} (hσ : σ ≤ 10) : rotated 2 60 p (6 * σ) = rotated 64 10 p σ := by
  rw [rotated, rotated, show 60 - 6 * σ = 6 * (10 - σ) by omega, Nat.pow_mul, Nat.pow_mul]
  rfl

theorem byteAt_rotated {p k σ : Nat} (hp : p < 64 ^ 10) (hσ : σ ≤ 10) (hk : k < 10) :
    byteAt (rotated 64 10 p σ) (9 - k) = byteAt p (9 - (k + σ) % 10) := by
  rw [rotated_eq 64 p hσ, byteAt_mul_pow_add _ (high_digits_lt hσ hp)]
  by_cases hwrap : σ ≤ 9 - k
  · rw [if_pos hwrap, byteAt_mod_pow _ (by omega), show 9 - (k + σ) % 10 = 9 - k - σ by omega]
  · rw [if_neg hwrap, byteAt_div_pow, show 9 - (k + σ) % 10 = 10 - σ + (9 - k) by omega]

/-! ### SLAX, SRAX, SLC and SRC -/

theorem shl2_eq (a x : Word) (d : Nat) : shl2 a x d = ofPairMag a x (2 ^ d * pairMag a x % 2 ^ 60) := by
  rw [shl2]
  split
  · rename_i hd
    have hdvd : 2 ^ 60 ∣ 2 ^ d := pow_dvd_pow 2 hd
    rw [Nat.mod_eq_zero_of_dvd (hdvd.mul_right _)]
  · rfl

theorem shr2_eq (a x : Word) (d : Nat) : shr2 a x d = ofPairMag a x (pairMag a x / 2 ^ d) := by
  rw [shr2]
  split
  · rename_i hd
    have hlt : pairMag a x < 2 ^ d := (pairMag_lt a x).trans_le (Nat.pow_le_pow_right Nat.two_pos hd)
    rw [Nat.div_eq_of_lt hlt]
  · rfl

theorem rotl2_eq (a x : Word) (d : Nat) : rotl2 a x d = ofPairMag a x (rotated 2 60 (pairMag a x) (d % 60)) := rfl

theorem rotr2_eq (a x : Word) (d : Nat) :
    rotr2 a x d = ofPairMag a x (rotated 2 60 (pairMag a x) (60 - d % 60)) := by
  rw [rotr2, rotated, Nat.sub_sub_self (by omega), Nat.add_comm]

theorem byteAt_shifted_up (p n : Nat) {k : Nat} (hk : k < 10) :
    byteAt (2 ^ (6 * n) * p % 2 ^ 60) (9 - k) = if k + n < 10 then byteAt p (9 - (k + n)) else 0 := by
  have hlimit : 2 ^ 60 = 64 ^ 10 := rfl
  rw [Nat.pow_mul, hlimit, byteAt_mod_pow _ (by omega), byteAt_mul_pow]
  by_cases hkn : k + n < 10
  · rw [if_pos hkn, if_pos (by omega), Nat.sub_sub]
  · rw [if_neg hkn, if_neg (by omega)]

theorem byteAt_shifted_down {p : Nat} (n : Nat) {k : Nat} (hp : p < 64 ^ 10) (hk : k < 10) :
    byteAt (p / 2 ^ (6 * n)) (9 - k) = if n ≤ k then byteAt p (9 - (k - n)) else 0 := by
  rw [Nat.pow_mul, byteAt_div_pow]
  by_cases hkn : n ≤ k
  · rw [if_pos hkn, show n + (9 - k) = 9 - (k - n) by omega]
  · rw [if_neg hkn, byteAt_of_lt hp (by omega)]

/-- A double shift whose result is the pair of `v`. -/
theorem doubleShift_pairMag {e : Addr → Instr} {sh : Word → Word → Nat → Word × Word} {d v : Nat} {new : Nat → Byte}
    (hexec : exec (e m) s = outcome (shiftAX sh m s)) (hd : shiftBits m s = .ok d)
    (hsh : sh s.a s.x d = ofPairMag s.a s.x v) (hv : v < 2 ^ 60)
    (hnew : s.params.shiftUnit = .byte → ∀ k, k < 10 → byteAt v (9 - k) = (new k).toNat) :
    ∃ t, exec (e m) s = .next t ∧ t.a.sign = s.a.sign ∧ t.x.sign = s.x.sign ∧ pairMag t.a t.x = v ∧
      (s.params.shiftUnit = .byte → ∀ k, k < 10 → (pairBytes t.a t.x).getD k 0 = new k) ∧
      regsKept [.A, .X] s t ∧ t.pc = s.pc + 1 ∧ memKept s t ∧ flagsKept s t ∧ surroundingsKept s t := by
  have hrun := shiftAX_ok (sh := sh) hd
  rw [hsh] at hrun
  have hpair := pairMag_ofPairMag s.a s.x hv
  refine ⟨_, exec_eq_next hexec hrun, rfl, rfl, hpair, fun h k hk => ?_, frame_of_setReg_setReg_seq rfl⟩
  apply BitVec.eq_of_toNat_eq
  rw [pairBytes_getD_toNat _ _ hk, ← hnew h k hk]
  exact congrArg (byteAt · (9 - k)) hpair

theorem toNat_ite_zero (c : Prop) [Decidable c] (b : Byte) : (if c then b else 0).toNat = if c then b.toNat else 0 :=
  apply_ite BitVec.toNat c b 0

/-- Settles O35: the four shifts as a shift or a rotation of the 60-bit magnitude. -/
theorem doubleShiftsMoveUnits : Obligations.DoubleShiftsMoveUnits := by
  intro m s ma hm hsign n d r p old e he
  have hd : shiftBits m s = .ok d := shiftBits_of_count_comm hm hsign
  have hp : p < 64 ^ 10 := pairMag_lt s.a s.x
  have hold {k : Nat} (hk : k < 10) : (old k).toNat = byteAt p (9 - k) := pairBytes_getD_toNat s.a s.x hk
  have hbyte (h : s.params.shiftUnit = .byte) : d = 6 * n := by
    show s.params.shiftUnit.bits * n = _
    rw [h]
    rfl
  have hr : r < 60 := Nat.mod_lt _ (by decide)
  simp only [List.mem_cons, List.not_mem_nil, or_false] at he
  rcases he with rfl | rfl | rfl | rfl
  · refine doubleShift_pairMag rfl hd (shl2_eq s.a s.x d) (Nat.mod_lt _ (by decide)) fun h k hk => ?_
    rw [hbyte h, byteAt_shifted_up p n hk, toNat_ite_zero]
    split
    · rename_i hkn
      exact (hold hkn).symm
    · rfl
  · refine doubleShift_pairMag rfl hd (shr2_eq s.a s.x d) ((Nat.div_le_self _ _).trans_lt hp) fun h k hk => ?_
    rw [hbyte h, byteAt_shifted_down n hp hk, toNat_ite_zero]
    split
    · exact (hold (by omega)).symm
    · rfl
  · refine doubleShift_pairMag rfl hd (rotl2_eq s.a s.x d) (rotated_lt (by decide) hr.le hp) fun h k hk => ?_
    have hρ : n % 10 ≤ 10 := (Nat.mod_lt n (by decide)).le
    have hr6 : d % 60 = 6 * (n % 10) := by
      rw [hbyte h]
      omega
    show byteAt (rotated 2 60 p (d % 60)) (9 - k) = (old ((k + n) % 10)).toNat
    rw [hr6, rotated_bits_eq_bytes p hρ, byteAt_rotated hp hρ hk,
      hold (Nat.mod_lt _ (by decide)), Nat.add_mod_mod]
  · have hsrc : p / 2 ^ r + 2 ^ (60 - r) * p % 2 ^ 60 = rotated 2 60 p (60 - r) := by
      rw [rotated, Nat.sub_sub_self hr.le, Nat.add_comm]
    simp only [hsrc]
    refine doubleShift_pairMag rfl hd (rotr2_eq s.a s.x d) (rotated_lt (by decide) (Nat.sub_le _ _) hp)
      fun h k hk => ?_
    have hr6 : 60 - d % 60 = 6 * (10 - n % 10) := by
      rw [hbyte h]
      omega
    rw [hr6, rotated_bits_eq_bytes p (Nat.sub_le _ _), byteAt_rotated hp (Nat.sub_le _ _) hk,
      hold (Nat.mod_lt _ (by decide))]

end Sys2Proof.Machine
end

section
/-! PROOF. MOVE (45_shift_move.md R346): the block as far as it has been copied, and the halt at the first bad address. -/

namespace Sys2Proof.Machine

variable {src dst : Int} {k : Nat} {s t h : State} {m : Addr} {f : Byte} {ma : Word}

/-! ### The loop, word by word -/

theorem copyWords_add (src dst : Int) (k n : Nat) (s : State) :
    copyWords src dst (k + n) s = copyWords src dst k s >>= copyWords (src + k) (dst + k) n := by
  induction k generalizing src dst s with
  | zero => rw [Nat.zero_add, Nat.cast_zero, Int.add_zero, Int.add_zero, copyWords, Phase.ok_bind]
  | succ k ih =>
    have hsrc : src + 1 + (k : Int) = src + (k + 1 : Nat) := by omega
    have hdst : dst + 1 + (k : Int) = dst + (k + 1 : Nat) := by omega
    rw [Nat.succ_add, copyWords, copyWords]
    cases memRead src s with
    | error h => rfl
    | ok w =>
      rw [Phase.ok_bind, Phase.ok_bind]
      cases memWrite dst w s with
      | error h => rfl
      | ok t => rw [Phase.ok_bind, Phase.ok_bind, ih, hsrc, hdst]

/-- One more word of the block. -/
theorem copyWords_succ (src dst : Int) (k : Nat) (s : State) :
    copyWords src dst (k + 1) s =
      copyWords src dst k s >>= fun t => memRead (src + k) t >>= fun w => memWrite (dst + k) w t := by
  rw [copyWords_add]
  congr 1
  funext t
  rw [copyWords]
  cases memRead (src + k) t with
  | error h => rfl
  | ok w =>
    rw [Phase.ok_bind, Phase.ok_bind]
    cases memWrite (dst + k) w t <;> rfl

/-! ### The block copied so far -/

theorem copiedBlock_zero (s : State) (a b : Nat) : copiedBlock s s a b 0 :=
  ⟨fun _ hj => absurd hj (Nat.not_lt_zero _), fun _ _ => rfl⟩

/-- The word at `a + k`, when it is read, goes to `b + k`; the words before it have been copied. -/
theorem copiedBlock_succ {a b : Nat} (hwf : Memory.wf t.mem = true) (ht : copiedBlock s t a b k) :
    copiedBlock s (t.putWord (b + k) (t.wordAt (a + k))) a b (k + 1) := by
  obtain ⟨hinside, houtside⟩ := ht
  have hother {n : Nat} (hn : n ≠ b + k) := State.putWord_wordAt_of_ne t (t.wordAt (a + k)) hn
  refine ⟨fun j hj => ?_, fun n hn => ?_⟩
  · rcases Nat.lt_succ_iff_lt_or_eq.1 hj with hlt | rfl
    · rw [hother (by omega), hinside j hlt]
      split
      · rw [hother (by omega)]
      · rfl
    · rw [State.putWord_wordAt_self hwf]
      split
      · rw [hother (by omega)]
      · exact houtside _ (by omega)
  · rw [hother (by omega), houtside n (by omega)]

/-- The steps of the copy before `k` have both addresses in memory. -/
def addrsOk (src dst : Int) (k : Nat) : Prop := ∀ j : Nat, j < k → addrOk (src + j) = true ∧ addrOk (dst + j) = true

theorem toNat_add_of_addrsOk (hok : addrsOk src dst (k + 1)) :
    (src + k).toNat = src.toNat + k ∧ (dst + k).toNat = dst.toNat + k := by
  obtain ⟨hsrc, hdst⟩ := hok 0 (Nat.succ_pos k)
  rw [addrOk_iff] at hsrc hdst
  omega

theorem copyWords_copiedBlock (hwf : Memory.wf s.mem = true) (hok : addrsOk src dst k) :
    ∃ mem, copyWords src dst k s = .ok (s.setMem mem) ∧ Memory.wf mem = true ∧
      copiedBlock s (s.setMem mem) src.toNat dst.toNat k := by
  induction k with
  | zero => exact ⟨s.mem, rfl, hwf, copiedBlock_zero s _ _⟩
  | succ k ih =>
    obtain ⟨mem, hcopy, hmem, hblock⟩ := ih fun j hj => hok j (Nat.lt_succ_of_lt hj)
    obtain ⟨hsrc, hdst⟩ := hok k (Nat.lt_succ_self k)
    obtain ⟨hsrcNat, hdstNat⟩ := toNat_add_of_addrsOk hok
    have hread := memRead_eq_ok (s := s.setMem mem).2 ⟨hsrc, rfl⟩
    have hwrite := memWrite_eq_ok (s := s.setMem mem) (w := (s.setMem mem).wordAt (src + k).toNat).2 ⟨hdst, rfl⟩
    have hlt : (dst + k).toNat < memWords := by
      rw [addrOk_iff] at hdst
      simp only [memWords]
      omega
    refine ⟨_, ?_, State.putWord_wf (s := s.setMem mem) hmem hlt ((s.setMem mem).wordAt (src + k).toNat), ?_⟩
    · rw [copyWords_succ, hcopy, Phase.ok_bind, hread, Phase.ok_bind, hwrite]
      rfl
    · rw [hsrcNat, hdstNat]
      exact copiedBlock_succ (t := s.setMem mem) hmem hblock

/-! ### MOVE -/

theorem exec_move (m : Addr) (f : Byte) (s : State) : exec (.move m f) s = outcome (moveBlock m f s) := rfl

/-- The addition to I1 is exact: I1 and F are small. -/
theorem smAdd_ofMag_byte {d : Word} (f : Byte) (hd : d.mag < 4096) :
    (smAdd d (Word.ofMag .plus f.toNat)).1.val = d.val + f.toNat := by
  have hf : f.toNat < 64 := f.isLt
  have hlt : f.toNat < magLimit := hf.trans (by decide)
  have hmag := Word.mag_ofMag .plus hlt
  rw [smAdd_val (smAdd_no_overflow hd (by omega)), Word.val_ofMag_plus hlt]

theorem smAdd_ofMag_zero (d : Word) : (smAdd d (Word.ofMag .plus 0)).1 = d := by
  rw [smAdd_zero (Word.mag_ofMag_zero _)]

/-- Settles O37: the loop copies the block, and the sum in I1 is exact. -/
theorem moveCopiesTheBlock : Obligations.MoveCopiesTheBlock := by
  intro m f s ma hwf hm hin
  have hok : addrsOk ma.val s.i1.val f.toNat := fun j hj => by
    rw [addrOk_iff, addrOk_iff]
    omega
  obtain ⟨mem, hcopy, -, hblock⟩ := copyWords_copiedBlock hwf hok
  obtain ⟨hregs, hpc, -, hflags, hsurroundings⟩ :=
    frame_of_setReg_seq (s.setMem mem) .I1 (smAdd s.i1 (Word.ofMag .plus f.toNat)).1
  refine ⟨_, exec_eq_next (exec_move m f s) (moveBlock_ok hm hcopy), hblock, ?_, fun h0 => ?_,
    fun q hq => (hregs q hq).trans (State.setMem_reg s mem q), hpc, hflags, hsurroundings⟩
  · show (smAdd s.i1 (Word.ofMag .plus f.toNat)).1.val = _
    rcases hin with h0 | ⟨-, -, hpos, hle⟩
    · rw [h0, smAdd_ofMag_zero, Nat.cast_zero, Int.add_zero]
    · refine smAdd_ofMag_byte f ?_
      have hmag := Word.natAbs_val s.i1
      omega
  · show (smAdd s.i1 (Word.ofMag .plus f.toNat)).1 = _
    rw [h0, smAdd_ofMag_zero]

/-- A copy whose first step fails halts there. -/
theorem copyWords_error_of_first {bad : Int} (n : Nat)
    (hbad : if addrOk src = true then bad = dst ∧ addrOk bad = false else bad = src) :
    copyWords src dst (n + 1) s = .error (s.setRun (.halted .illegalAddress { pc := s.pc, addr := some bad })) := by
  rw [copyWords]
  split at hbad
  · rename_i hsrc
    obtain ⟨rfl, hdst⟩ := hbad
    rw [memRead_eq_ok.2 ⟨hsrc, rfl⟩, Phase.ok_bind, memWrite_eq_error.2 ⟨hdst, rfl⟩, Phase.error_bind]
  · rename_i hsrc
    subst hbad
    rw [memRead_eq_error.2 ⟨Bool.eq_false_iff.2 hsrc, rfl⟩, Phase.error_bind]

/-- Settles O38: the loop runs to step `k`, and fails there. -/
theorem moveHaltsAtTheFirstBadAddress : Obligations.MoveHaltsAtTheFirstBadAddress := by
  intro m f s ma k hwf hm hk hok bad hbad
  obtain ⟨mem, hcopy, -, hblock⟩ := copyWords_copiedBlock hwf hok
  have hsplit : f.toNat = k + (f.toNat - k - 1 + 1) := by omega
  have herror := copyWords_add ma.val s.i1.val k (f.toNat - k - 1 + 1) s
  rw [← hsplit, hcopy, Phase.ok_bind, copyWords_error_of_first _ hbad] at herror
  exact ⟨_, (exec_move m f s).trans (congrArg outcome (moveBlock_error hm herror)), rfl, hblock, fun q _ =>
    State.setMem_reg s mem q, rfl, ⟨rfl, rfl⟩, ⟨rfl, rfl, rfl⟩, rfl, rfl, rfl⟩

end Sys2Proof.Machine
end
